-- ==== Sys2Proof/Word.lean ====
section
/-! DEFINITION. The word types of the core: it is byte-serial, and its registers are 2 to 32 bits wide (00_scope.md R10). -/

namespace Sys2Proof

/-- A byte, `u8` of R10. -/
abbrev Byte := BitVec 8

/-- A 16-bit unsigned integer, `u16` of R10: addresses, commands, 16-bit checksums. -/
abbrev Half := BitVec 16

/-- A 32-bit register (R27, R28). -/
abbrev Word := BitVec 32

end Sys2Proof
end

