-- ==== Sys2Proof/Config.lean ====
section
/-! DEFINITION. The implementation parameters of 00_scope.md R8, the shape of a field-table entry (30_encoding.md R111), and the model's free values: constants without a body, of which nothing can be proved. -/

namespace Sys2Proof

/-- The codec of a field with the parameters R111 gives it. `BOUNDED`'s minimum and maximum are declared and never enforced (R226, R234). -/
inductive Codec where
  /-- "raw unsigned integer" (R225). -/
  | raw
  /-- "bounded integer with declared [min,max] and optional “disabled” sentinel" (R226). -/
  | bounded (min max : Int) (disabled : Option Nat)
  /-- display = (raw * num + offn) / den; the port carries display * den (R227). -/
  | scaled (num den : Nat) (offn : Int)
  /-- "fixed-length ASCII string"; its length is the entry's width (R229). -/
  | string
deriving DecidableEq, Repr, Inhabited

/-- One entry of `FIELD_TABLE` (R111). -/
structure FieldEntry where
  index  : Byte
  name   : String
  offset : Nat
  width  : Nat
  codec  : Codec
deriving DecidableEq, Repr, Inhabited

/-- The constraints on a codec of an entry `w` bytes wide: R111 (`num`, `den` at least 1), R226 (the sentinel is a raw value) and R224 (every decoded `INT` fits the signed 32-bit `R_VALUE`). -/
def Codec.wf (w : Nat) : Codec → Bool
  | .raw => decide (w ≤ 3)
  | .bounded _ _ none => decide (w ≤ 3)
  | .bounded _ _ (some d) => decide (w ≤ 3) && decide (d < 256 ^ w)
  | .scaled num den offn =>
    decide (1 ≤ num) && decide (1 ≤ den) && decide (-2147483648 ≤ offn) &&
      decide (((256 ^ w - 1 : Nat) : Int) * num + offn ≤ 2147483647)
  | .string => true

/-- R111: at least one byte wide, and inside the structured prefix of 174 bytes. -/
def FieldEntry.wf (e : FieldEntry) : Bool :=
  decide (1 ≤ e.width) && decide (e.offset + e.width ≤ 174) && e.codec.wf e.width

/-- `BL_ARCH` (R37): the target architecture. No operation reads it. -/
inductive BlArch where
  | siLabs
  | arm
deriving DecidableEq, Repr, Inhabited

/-- The parameter `Timeout` (R8, R26): the type of the timeout values, "any type; the core never looks inside". A type is given up to the names of its values, by how many it has; the values are named by natural numbers (log entry 6). -/
inductive TimeoutType where
  /-- A type of `last + 1` values, named 0 to `last`. -/
  | finite (last : Nat)
  /-- A type with one value for every natural number. -/
  | countable
deriving DecidableEq, Repr, Inhabited

/-- The number names a value of the type. -/
def TimeoutType.has : TimeoutType → Nat → Bool
  | .finite last, n => decide (n ≤ last)
  | .countable, _ => true

/-- The parameters of R8, under their names there. -/
structure Params where
  mspP0          : Byte
  mspP1          : Byte
  mspDirReq      : Byte
  mspPoly        : Byte
  mspMaxFrame    : Nat
  escLocal       : Byte
  cmdDeviceInit  : Byte
  cmdDeviceRead  : Byte
  cmdDeviceWrite : Byte
  cmdExit        : Byte
  fwBase         : Half
  settingsBase   : Half
  fieldTable     : List FieldEntry
  fMarker        : Byte
  fVerMajor      : Byte
  fVerMinor      : Byte
  fName          : Byte
  strPad         : Byte
  blArch         : BlArch
  timeoutType    : TimeoutType
deriving DecidableEq, Repr, Inhabited

/-- The entry with index `i`, if the table has one (R221). -/
def Params.find (p : Params) (i : Byte) : Option FieldEntry :=
  p.fieldTable.find? (fun e => e.index == i)

/-- The table has an entry `i` of width `w` whose codec is `c` (R222). -/
def Params.has (p : Params) (i : Byte) (w : Nat) (c : Codec) : Bool :=
  match p.find i with
  | none => false
  | some e => decide (e.width = w) && decide (e.codec = c)

/-- The constraints of R8, R111 and R222 on the parameters. DESIGN CHOICE (log entry 29): `FW_BASE` may equal `SETTINGS_BASE`; R63 calls the two addresses different, R8 lists no such constraint and "The core checks none of these" (R63). -/
def Params.wf (p : Params) : Bool :=
  decide (9 ≤ p.mspMaxFrame) && decide (p.settingsBase.toNat + 256 ≤ 65536) &&
    p.fieldTable.all FieldEntry.wf && decide ((p.fieldTable.map FieldEntry.index).Nodup) &&
    p.has p.fMarker 1 .raw && p.has p.fVerMajor 1 .raw && p.has p.fVerMinor 1 .raw &&
    p.has p.fName 12 .string

/-- The four command bytes of R105 are four different bytes. R8 does not ask for it; the decoding of a request's command byte back to its transaction needs it. -/
def Params.cmdsDistinct (p : Params) : Bool :=
  decide ([p.cmdDeviceInit, p.cmdDeviceRead, p.cmdDeviceWrite, p.cmdExit].Nodup)

/-- A configuration is a set of parameters that keeps the constraints; one that breaks them is "a fault of the instantiation" (93_implementation_defined.md U13) and no value of this type. -/
structure Config where
  params : Params
  ok     : params.wf = true
deriving DecidableEq, Repr

/-- What the instantiator supplies (R8). FREE VALUE: no body; log entry 5. -/
opaque Config.supplied : Params

/-- The least table R222 asks for, at offsets the spec does not give, and two different flash addresses (R63). Only `Config.chosen` names it, so that a configuration exists where the supplied parameters break a constraint. -/
def Params.least : Params :=
  { mspP0 := 0, mspP1 := 0, mspDirReq := 0, mspPoly := 0, mspMaxFrame := 9, escLocal := 0
    cmdDeviceInit := 0, cmdDeviceRead := 1, cmdDeviceWrite := 2, cmdExit := 3
    fwBase := 0x0100, settingsBase := 0
    fieldTable := [⟨0, "marker", 0, 1, .raw⟩, ⟨1, "fw_major", 1, 1, .raw⟩,
      ⟨2, "fw_minor", 2, 1, .raw⟩, ⟨3, "device_name", 3, 12, .string⟩]
    fMarker := 0, fVerMajor := 1, fVerMinor := 2, fName := 3, strPad := 0, blArch := .arm
    timeoutType := .countable }

theorem Params.least_wf : Params.least.wf = true := by decide

/-- The configuration of `State.reset`: the supplied parameters. Nothing can be proved of it but that it keeps the constraints (log entry 5). -/
def Config.chosen : Config :=
  if h : Config.supplied.wf = true then ⟨Config.supplied, h⟩ else ⟨Params.least, Params.least_wf⟩

/-- How many bytes the stream takes at the call with this number, where no script answers. FREE VALUE: no body; log entry 7. -/
opaque Config.freeAccept : Nat → Nat

/-- The bytes that arrive on the line at the call with this number, where no script answers. FREE VALUE: no body; log entry 7. -/
opaque Config.freeArrival : Nat → List Byte

end Sys2Proof
end

