-- ==== Sys2Proof/Syntax.lean ====
section
/-! DEFINITION. The instructions: one constructor per row of spec/opcode_table.json, in the table's order. The first sixteen are the codes of the register `OP`, which the host starts (30_encoding.md R120, R121); the others are the codes, frames and table entries those operations read or write (log entry 2). Operands are registers (R27), so only `ackUnknown` carries one: the byte itself (R104). -/

namespace Sys2Proof

/-- One constructor per row of spec/opcode_table.json. -/
inductive Instr where
  -- HOST_OP. Codes of the register `OP` (R120, R121): what the host starts.
  | crc8
  | crc16x
  | crc16r
  | mspTransact
  | e4wSend
  | readFlash
  | writeFlash
  | fetch
  | getField
  | setField
  | flashAll
  | selectChannel
  | exitSession
  | reservedOp0
  | reservedOpE
  | reservedOpF
  -- VALUE_KIND. Value kinds of the value port (R122).
  | vkindInt
  | vkindDisabled
  | vkindBytes
  | vkindReserved
  -- E4W_ACK. Acknowledgement bytes of an ESC4Way reply (R104).
  | ackOk
  | ackInvalidCmd
  | ackInvalidCrc
  | ackVerifyError
  | ackInvalidChannel
  | ackInvalidParam
  | ackGeneralError
  | ackUnknown (b : Byte)
  -- BL_CMD. Command codes of the bootloader sub-protocol (R118).
  | blRun
  | blProgramFlash
  | blEraseFlash
  | blVerifyOrOther3
  | blVerifyOrOther4
  | blProgramEeprom
  | blReadSram
  | blKeepAlive
  | blSetBuffer
  | blSetAddress
  -- E4W_REQUEST. The four transactions the core builds by itself (R105, R106).
  | e4wDeviceInit
  | e4wDeviceRead
  | e4wDeviceWrite
  | e4wExit
  -- WIRE_FRAME. The frames of the two protocols (R90, R100, R101).
  | mspFrame
  | e4wRequestFrame
  | e4wReplyFrame
  -- SETTINGS_BLOCK. The settings block (R110).
  | settingsBlock
  -- FIELD_TABLE_ENTRY. An entry of the field table (R111).
  | fieldTableEntry
  -- CODEC. The codecs of a field (R225 to R229).
  | codecRaw
  | codecBounded
  | codecScaled
  | codecString
  -- MARKER_VALUE. The two values of the marker field (R112).
  | markerInvalid
  | markerValid
  -- DIAG_STRING. The two diagnostic strings (R113).
  | diagFlashFail
  | diagNotReady
  -- E4W_LENGTH. The length byte (R102).
  | e4wLengthByte
  -- STATUS_CODE. Status codes (R290).
  | statusOk
  | statusBadPreamble
  | statusLengthMismatch
  | statusCrcMismatch
  | statusShortRead
  | statusShortWrite
  | statusCommandError
  | statusSequenceError
  | statusChannelInitError
  | statusNotConnected
  | statusNoChannel
  | statusPayloadTooLong
  | statusPayloadEmpty
  | statusAddressRange
  | statusUnknownField
  | statusValueUnrepresentable
  | statusUnknownOp
  | statusBadValueKind
deriving DecidableEq, Repr

/-- Where a code stands, which says how it is read: each format of the table has a numbering of its own, and the same byte means different things in different places. -/
inductive CodeSpace where
  /-- The 4-bit register `OP` (R120). -/
  | hostOp
  /-- The 2-bit registers `A_VKIND` and `R_VKIND` (R122). -/
  | valueKind
  /-- Byte 5+L of an ESC4Way reply (R101, R104). -/
  | ack
  /-- A command code of the bootloader sub-protocol (R118). -/
  | blCmd
  /-- Byte 1 of an ESC4Way request the core builds by itself (R106). -/
  | e4wRequest
  /-- The marker field of the settings block (R112). -/
  | marker
  /-- The device-name field of the settings block (R113). -/
  | diag
  /-- The registers `R_STATUS` and `R_CAUSE` (R290). -/
  | status
  /-- The rows the spec gives no code: named by their position in spec/opcode_table.json (log entry 24). -/
  | tableRow
deriving DecidableEq, Repr

end Sys2Proof
end

