-- ==== Sys2Proof/WellFormed.lean ====
section
/-! DEFINITION. When an instruction is well formed: the byte of `ackUnknown` is one R104 gives no name of its own. No other constructor carries an operand. The checks on the parameters stand with them (`Params.wf`, Config.lean). -/

namespace Sys2Proof

/-- The acknowledgement bytes with a name of their own (R104). -/
def namedAcks : List Byte := [0x00, 0x02, 0x03, 0x04, 0x08, 0x09, 0x0F]

/-- "any other value (0x01, 0x05 to 0x07, 0x0A to 0x0E, 0x10 to 0xFF)" (R104). -/
def ackUnnamed (b : Byte) : Bool := !namedAcks.contains b

/-- Well-formedness of an instruction. -/
def Instr.wf : Instr → Bool
  | .crc8 => true
  | .crc16x => true
  | .crc16r => true
  | .mspTransact => true
  | .e4wSend => true
  | .readFlash => true
  | .writeFlash => true
  | .fetch => true
  | .getField => true
  | .setField => true
  | .flashAll => true
  | .selectChannel => true
  | .exitSession => true
  | .reservedOp0 => true
  | .reservedOpE => true
  | .reservedOpF => true
  | .vkindInt => true
  | .vkindDisabled => true
  | .vkindBytes => true
  | .vkindReserved => true
  | .ackOk => true
  | .ackInvalidCmd => true
  | .ackInvalidCrc => true
  | .ackVerifyError => true
  | .ackInvalidChannel => true
  | .ackInvalidParam => true
  | .ackGeneralError => true
  | .ackUnknown b => ackUnnamed b
  | .blRun => true
  | .blProgramFlash => true
  | .blEraseFlash => true
  | .blVerifyOrOther3 => true
  | .blVerifyOrOther4 => true
  | .blProgramEeprom => true
  | .blReadSram => true
  | .blKeepAlive => true
  | .blSetBuffer => true
  | .blSetAddress => true
  | .e4wDeviceInit => true
  | .e4wDeviceRead => true
  | .e4wDeviceWrite => true
  | .e4wExit => true
  | .mspFrame => true
  | .e4wRequestFrame => true
  | .e4wReplyFrame => true
  | .settingsBlock => true
  | .fieldTableEntry => true
  | .codecRaw => true
  | .codecBounded => true
  | .codecScaled => true
  | .codecString => true
  | .markerInvalid => true
  | .markerValid => true
  | .diagFlashFail => true
  | .diagNotReady => true
  | .e4wLengthByte => true
  | .statusOk => true
  | .statusBadPreamble => true
  | .statusLengthMismatch => true
  | .statusCrcMismatch => true
  | .statusShortRead => true
  | .statusShortWrite => true
  | .statusCommandError => true
  | .statusSequenceError => true
  | .statusChannelInitError => true
  | .statusNotConnected => true
  | .statusNoChannel => true
  | .statusPayloadTooLong => true
  | .statusPayloadEmpty => true
  | .statusAddressRange => true
  | .statusUnknownField => true
  | .statusValueUnrepresentable => true
  | .statusUnknownOp => true
  | .statusBadValueKind => true

end Sys2Proof
end

