-- ==== Sys2Proof/Decode.lean ====
section
/-! DEFINITION. The decoder, total on any bytes and rejecting by name, and the encoder, both written from the code tables of 30_encoding.md (R102, R104, R112, R113, R118, R120, R122) and 60_exceptions.md R290. A code is read in the place it stands in (`CodeSpace`). -/

namespace Sys2Proof

/-- Why a run of bytes is no code of the place it stands in. -/
inductive DecodeError where
  /-- There is no byte. -/
  | noByte
  /-- More bytes than the code has. -/
  | extraBytes (sp : CodeSpace)
  /-- "Every other value of the code is unused" (R290), or has no meaning (R118), or is wider than the register. -/
  | unassigned (sp : CodeSpace) (b : Byte)
  /-- The bytes are neither of the two strings of R113. -/
  | noDiagString
deriving DecidableEq, Repr

/-- The 4-bit operation code `OP` (R120, R121), in a byte whose upper four bits are zero. -/
def decodeHostOp (b : Byte) : Option Instr :=
  match b.toNat with
  | 0x01 => some .crc8
  | 0x02 => some .crc16x
  | 0x03 => some .crc16r
  | 0x04 => some .mspTransact
  | 0x05 => some .e4wSend
  | 0x06 => some .readFlash
  | 0x07 => some .writeFlash
  | 0x08 => some .fetch
  | 0x09 => some .getField
  | 0x0A => some .setField
  | 0x0B => some .flashAll
  | 0x0C => some .selectChannel
  | 0x0D => some .exitSession
  | 0x00 => some .reservedOp0
  | 0x0E => some .reservedOpE
  | 0x0F => some .reservedOpF
  | _ => none

/-- The 2-bit value kind (R122), in a byte whose upper six bits are zero. -/
def decodeValueKind (b : Byte) : Option Instr :=
  match b.toNat with
  | 0x00 => some .vkindInt
  | 0x01 => some .vkindDisabled
  | 0x02 => some .vkindBytes
  | 0x03 => some .vkindReserved
  | _ => none

/-- The acknowledgement byte (R104): every value has a meaning. -/
def decodeAck (b : Byte) : Option Instr :=
  match b.toNat with
  | 0x00 => some .ackOk
  | 0x02 => some .ackInvalidCmd
  | 0x03 => some .ackInvalidCrc
  | 0x04 => some .ackVerifyError
  | 0x08 => some .ackInvalidChannel
  | 0x09 => some .ackInvalidParam
  | 0x0F => some .ackGeneralError
  | _ => some (.ackUnknown b)

/-- The command codes of the bootloader sub-protocol (R118). -/
def decodeBlCmd (b : Byte) : Option Instr :=
  match b.toNat with
  | 0x00 => some .blRun
  | 0x01 => some .blProgramFlash
  | 0x02 => some .blEraseFlash
  | 0x03 => some .blVerifyOrOther3
  | 0x04 => some .blVerifyOrOther4
  | 0x05 => some .blProgramEeprom
  | 0x06 => some .blReadSram
  | 0xFD => some .blKeepAlive
  | 0xFE => some .blSetBuffer
  | 0xFF => some .blSetAddress
  | _ => none

/-- The two marker values (R112). -/
def decodeMarker (b : Byte) : Option Instr :=
  match b.toNat with
  | 0x00 => some .markerInvalid
  | 0x01 => some .markerValid
  | _ => none

/-- The status codes (R290). -/
def decodeStatus (b : Byte) : Option Instr :=
  match b.toNat with
  | 0x00 => some .statusOk
  | 0x10 => some .statusBadPreamble
  | 0x11 => some .statusLengthMismatch
  | 0x12 => some .statusCrcMismatch
  | 0x13 => some .statusShortRead
  | 0x14 => some .statusShortWrite
  | 0x20 => some .statusCommandError
  | 0x30 => some .statusSequenceError
  | 0x31 => some .statusChannelInitError
  | 0x40 => some .statusNotConnected
  | 0x41 => some .statusNoChannel
  | 0x42 => some .statusPayloadTooLong
  | 0x43 => some .statusPayloadEmpty
  | 0x44 => some .statusAddressRange
  | 0x45 => some .statusUnknownField
  | 0x46 => some .statusValueUnrepresentable
  | 0x47 => some .statusUnknownOp
  | 0x48 => some .statusBadValueKind
  | _ => none

/-- The command byte of a request the core builds by itself (R105, R106), tried in the table's order. -/
def decodeRequest (p : Params) (b : Byte) : Option Instr :=
  if b = p.cmdDeviceInit then some .e4wDeviceInit
  else if b = p.cmdDeviceRead then some .e4wDeviceRead
  else if b = p.cmdDeviceWrite then some .e4wDeviceWrite
  else if b = p.cmdExit then some .e4wExit
  else none

/-- The rows without a code, by their position in spec/opcode_table.json. -/
def decodeTableRow (b : Byte) : Option Instr :=
  match b.toNat with
  | 42 => some .mspFrame
  | 43 => some .e4wRequestFrame
  | 44 => some .e4wReplyFrame
  | 45 => some .settingsBlock
  | 46 => some .fieldTableEntry
  | 47 => some .codecRaw
  | 48 => some .codecBounded
  | 49 => some .codecScaled
  | 50 => some .codecString
  | 55 => some .e4wLengthByte
  | _ => none

/-- `FLASH FAIL`, ten ASCII bytes (R113). -/
def flashFailText : List Byte := [0x46, 0x4C, 0x41, 0x53, 0x48, 0x20, 0x46, 0x41, 0x49, 0x4C]

/-- `NOT READY`, nine ASCII bytes (R113). -/
def notReadyText : List Byte := [0x4E, 0x4F, 0x54, 0x20, 0x52, 0x45, 0x41, 0x44, 0x59]

/-- The code of one byte, in the place it stands in. -/
def decodeByte (p : Params) (sp : CodeSpace) (b : Byte) : Option Instr :=
  match sp with
  | .hostOp => decodeHostOp b
  | .valueKind => decodeValueKind b
  | .ack => decodeAck b
  | .blCmd => decodeBlCmd b
  | .e4wRequest => decodeRequest p b
  | .marker => decodeMarker b
  | .diag => none
  | .status => decodeStatus b
  | .tableRow => decodeTableRow b

/-- The decoder: what the bytes mean in the place they stand in. -/
def decode (p : Params) (sp : CodeSpace) (bs : List Byte) : Except DecodeError Instr :=
  match sp with
  | .diag =>
    if bs = flashFailText then .ok .diagFlashFail
    else if bs = notReadyText then .ok .diagNotReady
    else .error .noDiagString
  | sp =>
    match bs with
    | [] => .error .noByte
    | [b] =>
      match decodeByte p sp b with
      | some i => .ok i
      | none => .error (.unassigned sp b)
    | _ => .error (.extraBytes sp)

/-- The encoder: the place an instruction's code stands in, and its bytes. -/
def encode (p : Params) (i : Instr) : CodeSpace × List Byte :=
  match i with
  | .crc8 => (.hostOp, [0x01])
  | .crc16x => (.hostOp, [0x02])
  | .crc16r => (.hostOp, [0x03])
  | .mspTransact => (.hostOp, [0x04])
  | .e4wSend => (.hostOp, [0x05])
  | .readFlash => (.hostOp, [0x06])
  | .writeFlash => (.hostOp, [0x07])
  | .fetch => (.hostOp, [0x08])
  | .getField => (.hostOp, [0x09])
  | .setField => (.hostOp, [0x0A])
  | .flashAll => (.hostOp, [0x0B])
  | .selectChannel => (.hostOp, [0x0C])
  | .exitSession => (.hostOp, [0x0D])
  | .reservedOp0 => (.hostOp, [0x00])
  | .reservedOpE => (.hostOp, [0x0E])
  | .reservedOpF => (.hostOp, [0x0F])
  | .vkindInt => (.valueKind, [0x00])
  | .vkindDisabled => (.valueKind, [0x01])
  | .vkindBytes => (.valueKind, [0x02])
  | .vkindReserved => (.valueKind, [0x03])
  | .ackOk => (.ack, [0x00])
  | .ackInvalidCmd => (.ack, [0x02])
  | .ackInvalidCrc => (.ack, [0x03])
  | .ackVerifyError => (.ack, [0x04])
  | .ackInvalidChannel => (.ack, [0x08])
  | .ackInvalidParam => (.ack, [0x09])
  | .ackGeneralError => (.ack, [0x0F])
  | .ackUnknown b => (.ack, [b])
  | .blRun => (.blCmd, [0x00])
  | .blProgramFlash => (.blCmd, [0x01])
  | .blEraseFlash => (.blCmd, [0x02])
  | .blVerifyOrOther3 => (.blCmd, [0x03])
  | .blVerifyOrOther4 => (.blCmd, [0x04])
  | .blProgramEeprom => (.blCmd, [0x05])
  | .blReadSram => (.blCmd, [0x06])
  | .blKeepAlive => (.blCmd, [0xFD])
  | .blSetBuffer => (.blCmd, [0xFE])
  | .blSetAddress => (.blCmd, [0xFF])
  | .e4wDeviceInit => (.e4wRequest, [p.cmdDeviceInit])
  | .e4wDeviceRead => (.e4wRequest, [p.cmdDeviceRead])
  | .e4wDeviceWrite => (.e4wRequest, [p.cmdDeviceWrite])
  | .e4wExit => (.e4wRequest, [p.cmdExit])
  | .mspFrame => (.tableRow, [42])
  | .e4wRequestFrame => (.tableRow, [43])
  | .e4wReplyFrame => (.tableRow, [44])
  | .settingsBlock => (.tableRow, [45])
  | .fieldTableEntry => (.tableRow, [46])
  | .codecRaw => (.tableRow, [47])
  | .codecBounded => (.tableRow, [48])
  | .codecScaled => (.tableRow, [49])
  | .codecString => (.tableRow, [50])
  | .markerInvalid => (.marker, [0x00])
  | .markerValid => (.marker, [0x01])
  | .diagFlashFail => (.diag, flashFailText)
  | .diagNotReady => (.diag, notReadyText)
  | .e4wLengthByte => (.tableRow, [55])
  | .statusOk => (.status, [0x00])
  | .statusBadPreamble => (.status, [0x10])
  | .statusLengthMismatch => (.status, [0x11])
  | .statusCrcMismatch => (.status, [0x12])
  | .statusShortRead => (.status, [0x13])
  | .statusShortWrite => (.status, [0x14])
  | .statusCommandError => (.status, [0x20])
  | .statusSequenceError => (.status, [0x30])
  | .statusChannelInitError => (.status, [0x31])
  | .statusNotConnected => (.status, [0x40])
  | .statusNoChannel => (.status, [0x41])
  | .statusPayloadTooLong => (.status, [0x42])
  | .statusPayloadEmpty => (.status, [0x43])
  | .statusAddressRange => (.status, [0x44])
  | .statusUnknownField => (.status, [0x45])
  | .statusValueUnrepresentable => (.status, [0x46])
  | .statusUnknownOp => (.status, [0x47])
  | .statusBadValueKind => (.status, [0x48])

/-- The formats of the table whose rows have a word of their own, in the table's order. -/
def wordSpaces : List CodeSpace := [.hostOp, .valueKind, .ack, .blCmd, .marker, .status]

/-- The byte is the word of a row of this format. The row ACK_Unknown has no word: it stands for every byte without a name. -/
def isRowWord (sp : CodeSpace) (b : Byte) : Bool :=
  match sp with
  | .hostOp => (decodeHostOp b).isSome
  | .valueKind => (decodeValueKind b).isSome
  | .ack => decide (decodeAck b ≠ some (.ackUnknown b))
  | .blCmd => (decodeBlCmd b).isSome
  | .marker => (decodeMarker b).isSome
  | .status => (decodeStatus b).isSome
  | _ => false

/-- The format in which a bare word is read: the first of the table with a row of that word (log entry 24). -/
def wordSpace (w : Nat) : Option CodeSpace :=
  if w < 256 then wordSpaces.find? (fun sp => isRowWord sp (BitVec.ofNat 8 w)) else none

/-- The instruction the decoder reads from a bare word. Every word of the table is one byte; the words of different formats overlap, and the first format of the table has them, so that a word below 16 is the operation code `OP`. -/
def decodeTableWord (nbits w : Nat) : Option Instr :=
  if nbits = 0 then none
  else
    match wordSpace w with
    | none => none
    | some sp => decodeByte Config.supplied sp (BitVec.ofNat 8 w)

end Sys2Proof
end

