-- ==== Sys2Proof/Machine/State.lean ====
section
/-! DEFINITION. The state of the core (10_state.md R20 to R31), the inputs and the environment beside it, the reasons a step stops, and reset (R39). State is plain data. -/

namespace Sys2Proof.Machine

/-- Why the machine stops with a fault: the things R309 says have no meaning. -/
inductive Fault where
  /-- Raised by `step`: the host writes an operand register, `OUTBUF`, `TIMEOUT`, the firmware port or `LINK_UP`, or uses the stream itself, while `BUSY = 1`, "a breach has no meaning in the model" (R23, R31, R40, U20). Safe. -/
  | hostBreach
  /-- Raised by `step`: the host writes to `TIMEOUT` a number that names no value of the parameter type `Timeout` (R8, R26; log entry 6). Safe. -/
  | noSuchTimeout
  /-- Raised by `FLASH_ALL` at line C: the firmware source holds another number of bytes than `A_LEN`, "outside the model" (R35, U24). Safe. -/
  | firmwareSource
  /-- Raised by `MemRead` and `MemWrite`: `addr + n` is above 256, and the mirror has no such byte (R12, R60). No rule makes such an access. Safe. -/
  | noSuchMirrorByte
deriving DecidableEq, Repr

/-- Why an instruction has no meaning. -/
inductive Refusal where
  /-- Answered by `exec`'s own arms alone, for an instruction not modelled yet. Safe. -/
  | notModelled (mnemonic : String)
  /-- Answered by the rows of format BL_CMD: a command code of the bootloader sub-protocol, which acts on the ESC's bootloader; "The core never builds, sends or parses a frame of this sub-protocol" and its frame layout "is not in the source" (R118, R7). Safe. -/
  | bootloaderSubProtocol (code : Byte)
  /-- Answered by `step` for bytes that are no code of the place they are presented in. Safe. -/
  | undecodable (why : DecodeError)
deriving DecidableEq, Repr

/-- The status of an operation (R290). An error is an ordinary outcome, not a fault (R309). -/
inductive Status where
  | ok
  | badPreamble
  | lengthMismatch
  | crcMismatch
  | shortRead
  | shortWrite
  | commandError
  | sequenceError
  | channelInitError
  | notConnected
  | noChannel
  | payloadTooLong
  | payloadEmpty
  | addressRange
  | unknownField
  | valueUnrepresentable
  | unknownOp
  | badValueKind
deriving DecidableEq, Repr

/-- A value on the value port (R122, R224). -/
inductive Value where
  | int (v : Int)
  | disabled
  | bytes (bs : List Byte)
deriving DecidableEq, Repr

/-- The name of a value of the parameter type `Timeout` (R8, R26); `Params.timeoutType` says which numbers name one (log entry 6). -/
abbrev Timeout := Nat

/-- The mirror as the list of its non-zero bytes, addresses strictly rising; a byte not listed reads as `unlistedByte`. -/
abbrev Memory := List Host.Cell

/-- What an unlisted mirror byte reads as. DESIGN CHOICE (log entry 4): R39 leaves `MIRROR` unspecified at reset. -/
def unlistedByte : Byte := 0

/-- The canonical form: addresses of the mirror, strictly rising, no entry equal to what an unlisted address reads as. -/
abbrev Memory.wf (m : Memory) : Prop :=
  m.Pairwise (fun c d => c.1 < d.1) ∧ ∀ c ∈ m, c.1 < 256 ∧ c.2 ≠ unlistedByte

/-- The host operand registers (R27). -/
structure Operands where
  op    : BitVec 4
  cmd   : Half
  addr  : Half
  len   : Word
  poly  : Byte
  seed  : Half
  cap   : Word
  field : Byte
  vkind : BitVec 2
  value : Word
  chan  : Byte
deriving DecidableEq, Repr

/-- The host result registers (R28). The default of each is the 0 that R300 gives a register the operation's rule does not name. -/
structure Results where
  status : Byte := 0
  cause  : Byte := 0
  ack    : Byte := 0
  step   : BitVec 4 := 0
  len    : Word := 0
  xfer   : Word := 0
  crc    : Half := 0
  vkind  : BitVec 2 := 0
  value  : Word := 0
deriving DecidableEq, Repr

/-- A stream event (R12, R73), with the value `SEQ_STEP` had when it was issued (log entry 13). -/
inductive StreamEvent where
  /-- `StreamWrite(bs) -> n`. -/
  | write (step : BitVec 4) (bs : List Byte) (n : Nat)
  /-- `StreamRead(max, T) -> bs`. -/
  | read (step : BitVec 4) (max : Nat) (t : Timeout) (bs : List Byte)
deriving DecidableEq, Repr

/-- The environment's answers to come (R12, R13, R36): the oracle behind the stream port. -/
structure Env where
  /-- How many bytes the stream takes at each coming `StreamWrite` (at most the bytes given count). -/
  accepts  : List Nat
  /-- Bytes on the line that no read has taken (R34, R343). -/
  line     : List Byte
  /-- The bytes that have arrived on the line by each coming `StreamRead`, or by a read of the host's own from the line (R343). -/
  arrivals : List (List Byte)
  /-- When the host resets the core during an operation (R332), oldest first: a first entry `k` says that it does so while the stream call `k` calls after the next is outstanding, and the entry after it counts from there; empty: it does not do so again. -/
  abandon  : List Nat
deriving DecidableEq, Repr

/-- An operand register the host writes (R27). -/
inductive OperandReg where
  | op | cmd | addr | len | poly | seed | cap | field | vkind | value | chan
deriving DecidableEq, Repr

/-- What the host does (R13, R31, R35). -/
inductive HostInput where
  /-- The strobe `START` (R31). -/
  | start
  /-- Write the low bits of a value to an operand register (R27). -/
  | operand (r : OperandReg) (v : Word)
  /-- Write `TIMEOUT` (R26). -/
  | timeout (t : Timeout)
  /-- Fill `OUTBUF` (R29). -/
  | outbuf (bs : List Byte)
  /-- Present an image on the firmware byte-source port (R35). -/
  | firmware (bs : List Byte)
  /-- Attach or detach the byte stream (R23). -/
  | link (up : Bool)
  /-- Read up to `n` bytes off the line from the handle it owns, and drop them: with `n` large enough, drain it (R343). -/
  | drain (n : Nat)
  /-- Reset: a new session (R330). -/
  | reset
  /-- The model's own: put bytes before the core in the place a code of the table stands in, so that the piece of the core that handles them runs by itself (log entry 2). -/
  | present (sp : CodeSpace) (bs : List Byte)
deriving DecidableEq, Repr

/-- The machine. `cfg` never changes; `linkUp` and `fw` are ports; `env`, `events` and `inputs` are the model's own fields. -/
structure State where
  /-- The parameters (R8), constant (log entry 5). -/
  cfg       : Config
  /-- `MIRROR` (R21). -/
  mem       : Memory
  /-- `CACHED` (R22). -/
  cached    : Bool
  /-- `CHAN_VALID` (R24). -/
  chanValid : Bool
  /-- `CHAN` (R24). -/
  chan      : Byte
  /-- `SEQ_STEP` (R25). -/
  seqStep   : BitVec 4
  /-- `TIMEOUT` (R26). -/
  timeout   : Timeout
  /-- `OP` and the `A_*` registers (R27). -/
  opnd      : Operands
  /-- The `R_*` registers (R28). -/
  res       : Results
  /-- The bytes of `OUTBUF` the host has written (R29). -/
  outbuf    : List Byte
  /-- The valid bytes of `INBUF` (R29). -/
  inbuf     : List Byte
  /-- `TXBUF` (R30). -/
  txbuf     : List Byte
  /-- `RXBUF` (R30). -/
  rxbuf     : List Byte
  /-- `BUSY` (R31). -/
  busy      : Bool
  /-- `DONE` (R31). -/
  done      : Bool
  /-- The input `LINK_UP` (R23). -/
  linkUp    : Bool
  /-- The firmware byte-source port (R35). -/
  fw        : List Byte
  /-- The environment's answers to come. -/
  env       : Env
  /-- The stream events so far, oldest first (R73). -/
  events    : List StreamEvent
  /-- What the host does next, in order. -/
  inputs    : List HostInput
deriving DecidableEq, Repr

/-- The state after reset of a core with these parameters (R39). Zeros beyond `CACHED`, `CHAN_VALID`, `SEQ_STEP`, `R_STATUS`, `BUSY` and `DONE` are DESIGN CHOICES (log entries 3, 4, 7, 8). -/
def State.resetWith (c : Config) : State :=
  { cfg := c, mem := [], cached := false, chanValid := false, chan := 0, seqStep := 0, timeout := 0
    opnd := { op := 0, cmd := 0, addr := 0, len := 0, poly := 0, seed := 0, cap := 0, field := 0
              vkind := 0, value := 0, chan := 0 }
    res := {}, outbuf := [], inbuf := [], txbuf := [], rxbuf := [], busy := false, done := false
    linkUp := false, fw := []
    env := { accepts := [], line := [], arrivals := [], abandon := [] }, events := [], inputs := [] }

/-- The machine right after reset. -/
def State.reset : State := State.resetWith Config.chosen

end Sys2Proof.Machine
end

