-- ==== Sys2Proof/Machine/Flags.lean ====
section
/-! DEFINITION. Status codes and their classes (60_exceptions.md R290), and the decoding of the acknowledgement byte (30_encoding.md R104). The core has no arithmetic flags. -/

namespace Sys2Proof.Machine

/-- The code of a status in `R_STATUS` and `R_CAUSE` (R290). -/
def statusCode : Status → Byte
  | .ok => 0x00
  | .badPreamble => 0x10
  | .lengthMismatch => 0x11
  | .crcMismatch => 0x12
  | .shortRead => 0x13
  | .shortWrite => 0x14
  | .commandError => 0x20
  | .sequenceError => 0x30
  | .channelInitError => 0x31
  | .notConnected => 0x40
  | .noChannel => 0x41
  | .payloadTooLong => 0x42
  | .payloadEmpty => 0x43
  | .addressRange => 0x44
  | .unknownField => 0x45
  | .valueUnrepresentable => 0x46
  | .unknownOp => 0x47
  | .badValueKind => 0x48

/-- Every code of R290. "Every other value of the code is unused." -/
def statusCodes : List Byte :=
  [0x00, 0x10, 0x11, 0x12, 0x13, 0x14, 0x20, 0x30, 0x31,
   0x40, 0x41, 0x42, 0x43, 0x44, 0x45, 0x46, 0x47, 0x48]

/-- The error classes of R15. -/
inductive ErrorClass where
  | none | transport | protocol | sequence | config
deriving DecidableEq, Repr

/-- The class of a status: "The high four bits give the class" (R290). -/
def statusClass (e : Status) : ErrorClass :=
  match ((statusCode e).extractLsb' 4 4).toNat with
  | 0 => .none
  | 1 => .transport
  | 2 => .protocol
  | 3 => .sequence
  | _ => .config

/-- The names of the acknowledgement bytes, "a closed taxonomy" (R104). -/
inductive AckName where
  | ok | invalidCmd | invalidCrc | verifyError | invalidChannel | invalidParam | generalError | unknown
deriving DecidableEq, Repr

/-- The name of an acknowledgement byte (R104): a label for the host's messages. -/
def ackName (b : Byte) : AckName :=
  match b.toNat with
  | 0x00 => .ok
  | 0x02 => .invalidCmd
  | 0x03 => .invalidCrc
  | 0x04 => .verifyError
  | 0x08 => .invalidChannel
  | 0x09 => .invalidParam
  | 0x0F => .generalError
  | _ => .unknown

/-- The error an acknowledgement byte stands for: none for 0x00, `CommandError` for every other (R104, R185). -/
def ackError (b : Byte) : Option Status :=
  if b = 0x00 then none else some .commandError

end Sys2Proof.Machine
end

