-- ==== Sys2Proof/Machine/Operands.lean ====
section
/-! DEFINITION. The operand forms: 16-bit fields of the wire (00_scope.md R11), the length byte (30_encoding.md R102), chunks (20_memory.md R68), `OUTBUF` and the value port (10_state.md R27, R29, 30_encoding.md R122), and the codecs of a field (43_settings_cache.md R224 to R229). -/

namespace Sys2Proof.Machine

/-! ## 16-bit fields (R11) -/

/-- The low byte of a 16-bit value. -/
def lowByte (v : Half) : Byte := v.extractLsb' 0 8

/-- The high byte of a 16-bit value. -/
def highByte (v : Half) : Byte := v.extractLsb' 8 8

/-- The 16-bit value with this high and this low byte. -/
def halfOf (hi lo : Byte) : Half := (hi ++ lo : BitVec (8 + 8))

/-- `le16(v)`: low byte first. -/
def le16 (v : Half) : List Byte := [lowByte v, highByte v]

/-- `be16(v)`: high byte first. -/
def be16 (v : Half) : List Byte := [highByte v, lowByte v]

/-- `unle16(s)`, of the first two bytes of `s`. -/
def unle16 (s : List Byte) : Half := halfOf (s.getD 1 0) (s.getD 0 0)

/-- `unbe16(s)`, of the first two bytes of `s`. -/
def unbe16 (s : List Byte) : Half := halfOf (s.getD 0 0) (s.getD 1 0)

/-! ## The length byte (R102) -/

/-- `LenEnc(P) = P mod 256`. -/
def lenEnc (n : Nat) : Byte := BitVec.ofNat 8 n

/-- `LenDec(b)`: 256 for 0, else the byte. -/
def lenDec (b : Byte) : Nat := if b = 0 then 256 else b.toNat

/-! ## Chunks (R68) -/

/-- `ceil(len / 256)`. -/
def chunkCount (len : Nat) : Nat := (len + 255) / 256

/-- `n_i = min(256, len - 256*i)`. -/
def chunkLen (len i : Nat) : Nat := min 256 (len - 256 * i)

/-- `addr_i = addr + 256*i`, which fits 16 bits by R69. -/
def chunkAddr (addr i : Nat) : Half := BitVec.ofNat 16 (addr + 256 * i)

/-- `buf[256*i .. 256*i + n_i - 1]`. -/
def chunkBytes (buf : List Byte) (i : Nat) : List Byte := (buf.drop (256 * i)).take 256

/-! ## Host operands (R27, R29, R122) -/

/-- The bytes `OUTBUF[0 .. n-1]`; a byte the host has not written reads 0x00 (log entry 10). -/
def outPrefix (n : Nat) (written : List Byte) : List Byte :=
  written.take n ++ List.replicate (n - written.length) 0

/-- `OUTBUF[0 .. A_LEN-1]`. -/
def State.outBytes (s : State) : List Byte := outPrefix s.opnd.len.toNat s.outbuf

/-- The value on the port for the kind in `A_VKIND`: lines 2 and 3 of `SET_FIELD` (R122, R232). -/
def State.portValue (s : State) : Except Status Value :=
  match s.opnd.vkind.toNat with
  | 0 => .ok (.int s.opnd.value.toInt)
  | 1 => .ok .disabled
  | 2 => .ok (.bytes s.outBytes)
  | _ => .error .badValueKind

/-- The value in an operand register after the host writes `v` to it: the register's low bits of `v`. -/
def writeOperand (r : OperandReg) (v : Word) (o : Operands) : Operands :=
  match r with
  | .op => { o with op := v.setWidth 4 }
  | .cmd => { o with cmd := v.setWidth 16 }
  | .addr => { o with addr := v.setWidth 16 }
  | .len => { o with len := v }
  | .poly => { o with poly := v.setWidth 8 }
  | .seed => { o with seed := v.setWidth 16 }
  | .cap => { o with cap := v }
  | .field => { o with field := v.setWidth 8 }
  | .vkind => { o with vkind := v.setWidth 2 }
  | .value => { o with value := v }
  | .chan => { o with chan := v.setWidth 8 }

/-! ## Codecs (R224 to R229) -/

/-- `RawInt(raw)`: the bytes as an unsigned little-endian integer. -/
def rawInt : List Byte → Nat
  | [] => 0
  | b :: bs => b.toNat + 256 * rawInt bs

/-- `RawBytes(w, r)`: the `w` bytes whose `RawInt` is `r`. -/
def rawBytes : Nat → Nat → List Byte
  | 0, _ => []
  | w + 1, r => BitVec.ofNat 8 r :: rawBytes w (r / 256)

/-- `RawBytes(w, v)` if `0 <= v < 256^w`, else `ValueUnrepresentable`. -/
def encodeRaw (w : Nat) (v : Int) : Except Status (List Byte) :=
  if 0 ≤ v ∧ v < ((256 ^ w : Nat) : Int) then .ok (rawBytes w v.toNat) else .error .valueUnrepresentable

/-- `bs` with pad bytes up to `w`, or `ValueUnrepresentable` if it is longer (R229). -/
def encodeString (pad : Byte) (w : Nat) (bs : List Byte) : Except Status (List Byte) :=
  if bs.length ≤ w then .ok (bs ++ List.replicate (w - bs.length) pad) else .error .valueUnrepresentable

/-- The scaled codec on an integer of the port (R227): the quotient of `V - offn` by `num`, rounded toward zero. -/
def encodeScaled (w num : Nat) (offn v : Int) : Except Status (List Byte) :=
  if v - offn < 0 then .error .valueUnrepresentable
  else if 256 ^ w ≤ (v - offn).toNat / num then .error .valueUnrepresentable
  else .ok (rawBytes w ((v - offn).toNat / num))

/-- `Encode(e, value)` for an entry of width `w` and codec `c` (R225, R226, R227, R229). -/
def encodeValue (pad : Byte) (w : Nat) (c : Codec) (v : Value) : Except Status (List Byte) :=
  match c, v with
  | .raw, .int v => encodeRaw w v
  | .bounded _ _ _, .int v => encodeRaw w v
  | .bounded _ _ (some d), .disabled => .ok (rawBytes w d)
  | .scaled num _ offn, .int v => encodeScaled w num offn v
  | .string, .bytes bs => encodeString pad w bs
  | _, _ => .error .badValueKind

/-- `Decode(e, raw)` for codec `c` (R225, R226, R227, R229). -/
def decodeValue (c : Codec) (raw : List Byte) : Value :=
  match c with
  | .raw => .int (rawInt raw)
  | .bounded _ _ none => .int (rawInt raw)
  | .bounded _ _ (some d) => if rawInt raw = d then .disabled else .int (rawInt raw)
  | .scaled num _ offn => .int ((rawInt raw : Int) * num + offn)
  | .string => .bytes raw

/-- The tag of a codec (R111): the row of the table it is. -/
inductive CodecTag where
  | raw | bounded | scaled | string
deriving DecidableEq, Repr

/-- The tag of a codec. -/
def codecTag : Codec → CodecTag
  | .raw => .raw
  | .bounded _ _ _ => .bounded
  | .scaled _ _ _ => .scaled
  | .string => .string

end Sys2Proof.Machine
end

