-- ==== Sys2Proof/Machine/Ops.lean ====
section
/-! DEFINITION. The named operations over the mirror, the registers and the stream port (00_scope.md R12), the start and the end of an operation (10_state.md R31), and the entry of an error (60_exceptions.md R300), which stands where other machines take an exception. There is no return from one (R301). -/

namespace Sys2Proof.Machine

/-! ## The mirror as a memory (R12, R21, R60) -/

/-- The byte at an address. -/
def readByte : Memory → Nat → Byte
  | [], _ => unlistedByte
  | (k, b) :: m, a => if k = a then b else readByte m a

/-- `MemRead(addr, n)`: the bytes at `addr .. addr+n-1`. -/
def readBytes (m : Memory) (a n : Nat) : List Byte := (List.range n).map (fun i => readByte m (a + i))

/-- The entries for a run of bytes from an address: none for a byte an unlisted address reads as. -/
def cellsFrom : Nat → List Byte → Memory
  | _, [] => []
  | a, b :: bs => if b = unlistedByte then cellsFrom (a + 1) bs else (a, b) :: cellsFrom (a + 1) bs

/-- `MemWrite(addr, n, v)`: the entries below and above the run are kept, those of the run replaced. -/
def writeBytes (m : Memory) (a : Nat) (bs : List Byte) : Memory :=
  m.filter (fun c => c.1 < a) ++ cellsFrom a bs ++ m.filter (fun c => a + bs.length ≤ c.1)

/-! ## Register updates -/

def State.setMem (s : State) (m : Memory) : State := { s with mem := m }
def State.setCached (s : State) : State := { s with cached := true }
def State.clearChan (s : State) : State := { s with chanValid := false }
def State.setChan (s : State) (c : Byte) : State := { s with chan := c, chanValid := true }
def State.setSeqStep (s : State) (k : BitVec 4) : State := { s with seqStep := k }
def State.setAck (s : State) (a : Byte) : State := { s with res := { s.res with ack := a } }
def State.setXfer (s : State) (x : Word) : State := { s with res := { s.res with xfer := x } }
def State.setInbuf (s : State) (bs : List Byte) : State := { s with inbuf := bs }
def State.setTx (s : State) (bs : List Byte) : State := { s with txbuf := bs }
def State.setRx (s : State) (bs : List Byte) : State := { s with rxbuf := bs }
def State.setVkind (s : State) (k : BitVec 2) : State := { s with opnd := { s.opnd with vkind := k } }
def State.setOpnd (s : State) (o : Operands) : State := { s with opnd := o }
def State.setEnv (s : State) (e : Env) : State := { s with env := e }
def State.addEvent (s : State) (e : StreamEvent) : State := { s with events := s.events ++ [e] }
def State.setInputs (s : State) (l : List HostInput) : State := { s with inputs := l }

/-! ## Procedures -/

/-- Why a procedure ends before its last line. -/
inductive Stop where
  /-- `raise E` (R12, R300). -/
  | raised (e : Status)
  /-- The host has reset the core during the operation (R332). -/
  | abandoned
  /-- The model has no meaning for what happened (R309). -/
  | broken (f : Fault)
deriving DecidableEq, Repr

/-- How a procedure ends, with the state it leaves: "State written before the `raise` stays written" (R12). -/
inductive Ret (α : Type) where
  | ok (a : α) (s : State)
  | stop (r : Stop) (s : State)

/-- The next line of a procedure runs only if the line before it did not raise (R12). -/
def Ret.bind {α β : Type} (r : Ret α) (f : α → State → Ret β) : Ret β :=
  match r with
  | .ok a s => f a s
  | .stop e s => .stop e s

/-- The state a procedure leaves, however it ends. -/
def Ret.state {α : Type} : Ret α → State
  | .ok _ s => s
  | .stop _ s => s

/-- `raise E` (R12). -/
def raise {α : Type} (e : Status) (s : State) : Ret α := .stop (.raised e) s

/-- Go on with a value, or raise the error it is. -/
def ofExcept {α : Type} (x : Except Status α) (s : State) : Ret α :=
  match x with
  | .ok a => .ok a s
  | .error e => raise e s

/-- `MemRead(addr, n)` (R12). -/
def memRead (a n : Nat) (s : State) : Ret (List Byte) :=
  if a + n ≤ 256 then .ok (readBytes s.mem a n) s else .stop (.broken .noSuchMirrorByte) s

/-- `MemWrite(addr, len(bs), bs)` (R12). -/
def memWrite (a : Nat) (bs : List Byte) (s : State) : Ret Unit :=
  if a + bs.length ≤ 256 then .ok () (s.setMem (writeBytes s.mem a bs)) else .stop (.broken .noSuchMirrorByte) s

/-! ## The stream port (R12, R34) -/

/-- The next answer of the environment to a `StreamWrite`, before the bound `n <= len(bs)`; a free value where the script has run out. -/
def State.nextAccept (s : State) : Nat := s.env.accepts.headD (Config.freeAccept s.events.length)

/-- The bytes on the line at the next `StreamRead`: those no read has taken, then those that arrive; a free value where the script has run out (R34, R343). -/
def State.nextLine (s : State) : List Byte :=
  s.env.line ++ s.env.arrivals.headD (Config.freeArrival s.events.length)

/-- The host resets the core during the next stream call (R332). -/
def Env.abandonsNow (e : Env) : Bool := e.abandon.head? == some 0

/-- The coming resets (R332) after one more stream call. -/
def countDown : List Nat → List Nat
  | [] => []
  | k :: ks => (k - 1) :: ks

/-- The environment after a reset during an operation: the next such reset counts from here. -/
def Env.afterAbandon (e : Env) : Env := { e with abandon := e.abandon.tail }

/-- The environment after a stream call that leaves these bytes on the line. -/
def Env.afterWrite (e : Env) : Env := { e with accepts := e.accepts.tail, abandon := countDown e.abandon }

def Env.afterRead (e : Env) (line : List Byte) : Env :=
  { e with line := line, arrivals := e.arrivals.tail, abandon := countDown e.abandon }

/-- The environment after the host has read up to `n` bytes off the line (R343): first those no read has taken, then those that have arrived since. -/
def Env.afterDrain (e : Env) (n : Nat) : Env :=
  { e with line := (e.line ++ e.arrivals.headD []).drop n, arrivals := e.arrivals.tail }

/-- `StreamWrite(bs) -> n`, `0 <= n <= len(bs)`. -/
def streamWrite (bs : List Byte) (s : State) : Ret Nat :=
  if s.env.abandonsNow then .stop .abandoned s
  else
    .ok (min s.nextAccept bs.length)
      ((s.setEnv s.env.afterWrite).addEvent (.write s.seqStep bs (min s.nextAccept bs.length)))

/-- `StreamRead(max, TIMEOUT) -> bs`, `0 <= len(bs) <= max`: what is on the line, up to `max` bytes; the rest heads the next read (R34, R343). -/
def streamRead (max : Nat) (s : State) : Ret (List Byte) :=
  if s.env.abandonsNow then .stop .abandoned s
  else
    .ok (s.nextLine.take max)
      ((s.setEnv (s.env.afterRead (s.nextLine.drop max))).addEvent
        (.read s.seqStep max s.timeout (s.nextLine.take max)))

/-! ## Start, end and error entry of an operation (R28, R31, R300) -/

/-- An accepted `START`: `BUSY` set, `DONE` cleared. `R_ACK` and `R_XFER` count from 0 ("0 if none", R28), `INBUF` gathers from nothing, and no `FlashAll` is running (R25). -/
def State.begin (s : State) : State :=
  { s with busy := true, done := false, seqStep := 0, inbuf := []
           res := { s.res with ack := 0, xfer := 0 } }

/-- The end of an operation: every result register written, `SEQ_STEP` and `BUSY` cleared, `DONE` set (R28, R31, R300). The packet buffers "carry nothing from one operation to the next" (R30). -/
def State.endOp (s : State) (r : Results) (bs : List Byte) : State :=
  { s with res := r, inbuf := bs, txbuf := [], rxbuf := [], seqStep := 0, busy := false, done := true }

/-- The operations whose rule names `R_ACK` among their results (R120, R295): codes 0x5 to 0xD. -/
def namesAck (op : BitVec 4) : Bool := decide (5 ≤ op.toNat ∧ op.toNat ≤ 13)

/-- `R_XFER` of `FLASH_ALL` when step `SEQ_STEP` has failed (R260): 0 before step 5, `WriteFlash`'s count in step 5, the whole image after it. -/
def State.flashXfer (s : State) : Word :=
  if s.seqStep.toNat < 5 then 0 else if s.seqStep.toNat = 5 then s.res.xfer else s.opnd.len

/-- What the operation's rule names for the error case (R295): `R_ACK`; `R_XFER` of `READ_FLASH`, `WRITE_FLASH` and `FLASH_ALL`; `R_LEN` of `READ_FLASH`. Every other register gets 0. -/
def State.progress (op : BitVec 4) (s : State) : Results :=
  { ack := if namesAck op then s.res.ack else 0
    xfer := if op = 0x6 ∨ op = 0x7 then s.res.xfer else if op = 0xB then s.flashXfer else 0
    len := if op = 0x6 then s.res.xfer else 0 }

/-- The bytes handed over with an error: the good chunks of `READ_FLASH` (R190), else none. -/
def State.handedOver (op : BitVec 4) (s : State) : List Byte := if op = 0x6 then s.inbuf else []

/-- The status under which `FLASH_ALL` reports a failure of step `SEQ_STEP` (R260, R262). -/
def State.stepStatus (s : State) : Status := if s.seqStep = 1 then .channelInitError else .sequenceError

/-- The wrapping of an error raised inside a step of `FLASH_ALL` (R260, R293): `R_STEP` is the step, `R_CAUSE` the code of the error. -/
def State.stepFailed (s : State) (e : Status) (cause : Byte) : State :=
  s.endOp { s.progress 0xB with status := statusCode e, cause := cause, step := s.seqStep } []

/-- THE ENTRY OF AN ERROR (R300): operation `op` ends at once with the code of `e`, its rule's registers for the error case and 0 in every other result register; inside a step of `FLASH_ALL` the error is wrapped. All other state keeps what was written. -/
def raiseEntry (op : BitVec 4) (e : Status) (s : State) : State :=
  if op = 0xB ∧ s.seqStep ≠ 0 then s.stepFailed s.stepStatus (statusCode e)
  else s.endOp { s.progress op with status := statusCode e } (s.handedOver op)

/-- A new session (R330, R331): the state of reset with these parameters. The ports, the environment and the list of events are not the core's and stay. -/
def State.newSession (s : State) : State :=
  { State.resetWith s.cfg with
      linkUp := s.linkUp, fw := s.fw, env := s.env
      events := s.events, inputs := s.inputs }

/-- Carry out operation `op`: start it, run its procedure, and end it with the results `done` gives, or with the error raised. -/
def runOp {α : Type} (op : BitVec 4) (body : State → Ret α) (results : α → State → Results × List Byte)
    (s : State) : Host.Outcome State Fault Refusal :=
  match body s.begin with
  | .ok a t => .next (t.endOp (results a t).1 (results a t).2)
  | .stop (.raised e) t => .next (raiseEntry op e t)
  | .stop .abandoned t => .next (t.setEnv t.env.afterAbandon).newSession
  | .stop (.broken f) _ => .fault f

/-- The results of an operation that hands nothing back but `R_ACK`. -/
def ackOnly {α : Type} (_ : α) (t : State) : Results × List Byte := ({ ack := t.res.ack }, [])

end Sys2Proof.Machine
end

