-- ==== Sys2Proof/Machine/Checksum.lean ====
section
/-! DEFINITION. The Checksum Engine (40_checksum.md): the three functions and the operations CRC8, CRC16X and CRC16R. -/

namespace Sys2Proof.Machine

/-- Eight rounds. -/
def rounds {w : Nat} (round : BitVec w → BitVec w) (c : BitVec w) : BitVec w :=
  round (round (round (round (round (round (round (round c)))))))

/-- One shift and conditional exclusive-or of `Crc8` (R141). -/
def crc8Round (poly c : Byte) : Byte := if c.getLsbD 7 then (c <<< 1) ^^^ poly else c <<< 1

/-- One byte of `Crc8`: "XOR-in then 8 shift/conditional-XOR rounds" (R141). -/
def crc8Byte (poly c b : Byte) : Byte := rounds (crc8Round poly) (c ^^^ b)

/-- `Crc8From(c0, data, poly)` (R143). -/
def crc8From (c : Byte) (data : List Byte) (poly : Byte) : Byte := data.foldl (crc8Byte poly) c

/-- `Crc8(data, poly)` (R141). -/
def crc8Of (data : List Byte) (poly : Byte) : Byte := crc8From 0 data poly

/-- One round of `Crc16X` (R144). -/
def crc16xRound (c : Half) : Half := if c.getLsbD 15 then (c <<< 1) ^^^ 0x1021 else c <<< 1

/-- One byte of `Crc16X`: into the high half, then 8 rounds (R144). -/
def crc16xByte (c : Half) (b : Byte) : Half := rounds crc16xRound (c ^^^ (b.setWidth 16 <<< 8))

/-- `Crc16X(data, seed)` (R144). -/
def crc16xOf (data : List Byte) (seed : Half) : Half := data.foldl crc16xByte seed

/-- One round of `Crc16R` (R146). -/
def crc16rRound (c : Half) : Half := if c.getLsbD 0 then (c >>> 1) ^^^ 0xA001 else c >>> 1

/-- One byte of `Crc16R`: into the low half, then 8 rounds (R146). -/
def crc16rByte (c : Half) (b : Byte) : Half := rounds crc16rRound (c ^^^ b.setWidth 16)

/-- `Crc16RFrom(c0, data)` (R148). -/
def crc16rFrom (c : Half) (data : List Byte) : Half := data.foldl crc16rByte c

/-- `Crc16R(data)` (R146). -/
def crc16rOf (data : List Byte) : Half := crc16rFrom 0 data

/-- The results of a checksum operation: `R_CRC` alone. -/
def crcResult (c : Half) (_ : State) : Results × List Byte := ({ crc := c }, [])

/-- CRC8 (R142). -/
def execCrc8 (s : State) : Host.Outcome State Fault Refusal :=
  runOp 0x1 (fun t => .ok ((crc8Of t.outBytes t.opnd.poly).setWidth 16) t) crcResult s

/-- CRC16X (R145). -/
def execCrc16x (s : State) : Host.Outcome State Fault Refusal :=
  runOp 0x2 (fun t => .ok (crc16xOf t.outBytes t.opnd.seed) t) crcResult s

/-- CRC16R (R147). -/
def execCrc16r (s : State) : Host.Outcome State Fault Refusal :=
  runOp 0x3 (fun t => .ok (crc16rOf t.outBytes) t) crcResult s

end Sys2Proof.Machine
end

