-- ==== Sys2Proof/Machine/Codes.lean ====
section
/-! DEFINITION. The reserved operation codes (30_encoding.md R121), the rows of format STATUS_CODE (60_exceptions.md R290, R300; log entry 17) and the rows of format BL_CMD (30_encoding.md R118; log entry 23). -/

namespace Sys2Proof.Machine

/-! ## Reserved operation codes (R121) -/

/-- A `START` with this code ends at once with `UnknownOp`. -/
def reservedOp (op : BitVec 4) (s : State) : Host.Outcome State Fault Refusal :=
  runOp op (fun t => (raise .unknownOp t : Ret Unit)) ackOnly s

def execReservedOp0 (s : State) : Host.Outcome State Fault Refusal := reservedOp 0x0 s
def execReservedOpE (s : State) : Host.Outcome State Fault Refusal := reservedOp 0xE s
def execReservedOpF (s : State) : Host.Outcome State Fault Refusal := reservedOp 0xF s

/-! ## Status codes: an operation ends with this status, with none of its effect (R290, R300) -/

/-- The operation in `OP` starts and its first line raises `e`: the error entry alone. -/
def endWith (e : Status) (s : State) : Host.Outcome State Fault Refusal :=
  runOp s.opnd.op (fun t => (raise e t : Ret Unit)) ackOnly s

/-- `OK`: the end of an operation whose rule names no result. -/
def execStatusOk (s : State) : Host.Outcome State Fault Refusal := .next (s.endOp {} [])

def execStatusBadPreamble (s : State) : Host.Outcome State Fault Refusal := endWith .badPreamble s
def execStatusLengthMismatch (s : State) : Host.Outcome State Fault Refusal := endWith .lengthMismatch s
def execStatusCrcMismatch (s : State) : Host.Outcome State Fault Refusal := endWith .crcMismatch s
def execStatusShortRead (s : State) : Host.Outcome State Fault Refusal := endWith .shortRead s
def execStatusShortWrite (s : State) : Host.Outcome State Fault Refusal := endWith .shortWrite s

/-- `CommandError`: "the ack byte is in `R_ACK`" (R290, R292) and stays there. -/
def execStatusCommandError (s : State) : Host.Outcome State Fault Refusal :=
  .next (s.endOp { status := statusCode .commandError, ack := s.res.ack } [])

/-- `SequenceError`: the wrapping of the error whose code stands in `R_STATUS`, raised in step `SEQ_STEP` (R293). -/
def execStatusSequenceError (s : State) : Host.Outcome State Fault Refusal :=
  .next (s.stepFailed .sequenceError s.res.status)

/-- `ChannelInitError`: the same wrapping under the name it has for step 1 (R262). -/
def execStatusChannelInitError (s : State) : Host.Outcome State Fault Refusal :=
  .next (s.stepFailed .channelInitError s.res.status)

def execStatusNotConnected (s : State) : Host.Outcome State Fault Refusal := endWith .notConnected s
def execStatusNoChannel (s : State) : Host.Outcome State Fault Refusal := endWith .noChannel s
def execStatusPayloadTooLong (s : State) : Host.Outcome State Fault Refusal := endWith .payloadTooLong s
def execStatusPayloadEmpty (s : State) : Host.Outcome State Fault Refusal := endWith .payloadEmpty s
def execStatusAddressRange (s : State) : Host.Outcome State Fault Refusal := endWith .addressRange s
def execStatusUnknownField (s : State) : Host.Outcome State Fault Refusal := endWith .unknownField s
def execStatusValueUnrepresentable (s : State) : Host.Outcome State Fault Refusal := endWith .valueUnrepresentable s
def execStatusUnknownOp (s : State) : Host.Outcome State Fault Refusal := endWith .unknownOp s
def execStatusBadValueKind (s : State) : Host.Outcome State Fault Refusal := endWith .badValueKind s

/-! ## The bootloader sub-protocol: "The core never builds, sends or parses a frame of this sub-protocol" (R118) -/

/-- The ESC's bootloader would take this command code; the spec gives neither the frame nor its effect. -/
def bootloaderCommand (code : Byte) (_ : State) : Host.Outcome State Fault Refusal :=
  .refused (.bootloaderSubProtocol code)

def execBlRun (s : State) : Host.Outcome State Fault Refusal := bootloaderCommand 0x00 s
def execBlProgramFlash (s : State) : Host.Outcome State Fault Refusal := bootloaderCommand 0x01 s
def execBlEraseFlash (s : State) : Host.Outcome State Fault Refusal := bootloaderCommand 0x02 s
def execBlVerifyOrOther3 (s : State) : Host.Outcome State Fault Refusal := bootloaderCommand 0x03 s
def execBlVerifyOrOther4 (s : State) : Host.Outcome State Fault Refusal := bootloaderCommand 0x04 s
def execBlProgramEeprom (s : State) : Host.Outcome State Fault Refusal := bootloaderCommand 0x05 s
def execBlReadSram (s : State) : Host.Outcome State Fault Refusal := bootloaderCommand 0x06 s
def execBlKeepAlive (s : State) : Host.Outcome State Fault Refusal := bootloaderCommand 0xFD s
def execBlSetBuffer (s : State) : Host.Outcome State Fault Refusal := bootloaderCommand 0xFE s
def execBlSetAddress (s : State) : Host.Outcome State Fault Refusal := bootloaderCommand 0xFF s

end Sys2Proof.Machine
end

