-- ==== Sys2Proof/Machine/Esc4Way.lean ====
section
/-! DEFINITION. The ESC4Way Transport (42_esc4way_transport.md): one transaction (R180), the chunked transfers (R190, R194), the session operations (R200, R202), and the rows that stand for its frames, its four transactions, its acknowledgement bytes and its length byte. -/

namespace Sys2Proof.Machine

/-! ## One transaction (R180) -/

/-- The five header bytes of a request (line 5 of R180, R100). -/
def e4wHeader (p : Params) (cmd : Byte) (addr : Half) (out : List Byte) : List Byte :=
  [p.escLocal, cmd] ++ be16 addr ++ [lenEnc out.length]

/-- The whole request (line 6 of R180, R100, R182). -/
def e4wRequest (p : Params) (cmd : Byte) (addr : Half) (out : List Byte) : List Byte :=
  e4wHeader p cmd addr out ++ out ++ be16 (crc16xOf (e4wHeader p cmd addr out ++ out) 0)

/-- The declared length of a reply (line 11 of R180, R103). -/
def e4wDeclared (h : List Byte) : Nat := lenDec (h.getD 4 0)

/-- Lines 15 and 16 of R180: the acknowledgement byte goes to `R_ACK`, and every byte but 0x00 raises `CommandError` (R104, R185). -/
def e4wAck (ack : Byte) (s : State) : Ret Unit :=
  match ackError ack with
  | none => .ok () (s.setAck ack)
  | some e => raise e (s.setAck ack)

/-- Lines 14 to 17 of R180 on the header `h` and the `L + 3` bytes `b` after it: the checksum, the acknowledgement, the payload (R184, R185, R186). -/
def e4wCheck (h b : List Byte) (s : State) : Ret (List Byte) :=
  if crc16xOf (h ++ b.take (e4wDeclared h + 1)) 0 ≠ unbe16 (b.drop (e4wDeclared h + 1)) then
    raise .crcMismatch s
  else (e4wAck (b.getD (e4wDeclared h) 0) s).bind fun _ s => .ok (b.take (e4wDeclared h)) s

/-- Lines 9 to 17 of R180: the two-phase read (R103, R184, R187) and the checks. -/
def e4wReply (s : State) : Ret (List Byte) :=
  (streamRead 5 s).bind fun h s =>
  if h.length < 5 then raise .shortRead (s.setRx h)
  else
    (streamRead (e4wDeclared h + 3) (s.setRx h)).bind fun b s =>
    if b.length < e4wDeclared h + 3 then raise .shortRead (s.setRx (h ++ b))
    else e4wCheck h b (s.setRx (h ++ b))

/-- Lines 1 to 8 of R180: the tests, the request built and sent in one write (R181, R182, R183). -/
def e4wPut (cmd : Byte) (addr : Half) (out : List Byte) (s : State) : Ret Unit :=
  if s.linkUp = false then raise .notConnected s
  else if out.length = 0 then raise .payloadEmpty s
  else if 256 < out.length then raise .payloadTooLong s
  else
    (streamWrite (e4wRequest s.cfg.params cmd addr out) (s.setTx (e4wRequest s.cfg.params cmd addr out))).bind
      fun w s =>
      if w < (e4wRequest s.cfg.params cmd addr out).length then raise .shortWrite s else .ok () s

/-- `E4wSend(cmd, addr, out)` (R180). -/
def e4wSend (cmd : Byte) (addr : Half) (out : List Byte) (s : State) : Ret (List Byte) :=
  (e4wPut cmd addr out s).bind fun _ s => e4wReply s

/-- A reply's payload handed back: `INBUF`, `R_LEN`, `R_ACK`. -/
def replyResult (p : List Byte) (t : State) : Results × List Byte :=
  ({ ack := t.res.ack, len := BitVec.ofNat 32 p.length }, p)

/-- E4W_SEND (R180): the high byte of `A_CMD` is ignored. -/
def execE4wSend (s : State) : Host.Outcome State Fault Refusal :=
  runOp 0x5 (fun t => e4wSend (lowByte t.opnd.cmd) t.opnd.addr t.outBytes t) replyResult s

/-! ## The transactions the core builds (R106) -/

/-- Device-init: address 0, payload the channel number. -/
def deviceInit (ch : Byte) (s : State) : Ret (List Byte) := e4wSend s.cfg.params.cmdDeviceInit 0 [ch] s

/-- Device-read of `n` bytes, `1 <= n <= 256`: the payload is `LenEnc(n)` and the reply must carry exactly `n` bytes (R191, R192; lines 7 and 8 of R190). -/
def deviceRead (addr : Half) (n : Nat) (s : State) : Ret (List Byte) :=
  (e4wSend s.cfg.params.cmdDeviceRead addr [lenEnc n] s).bind fun p s =>
  if p.length ≠ n then raise .lengthMismatch s else .ok p s

/-- Device-write: the payload is the bytes to write; the reply's payload is dropped (line 8 of R194). -/
def deviceWrite (addr : Half) (bs : List Byte) (s : State) : Ret (List Byte) :=
  e4wSend s.cfg.params.cmdDeviceWrite addr bs s

/-- Bootloader-exit: address 0, payload one zero byte. -/
def bootloaderExit (s : State) : Ret (List Byte) := e4wSend s.cfg.params.cmdExit 0 [0x00] s

/-! ## Chunked transfers (R68, R69, R190, R194) -/

/-- The readiness and range tests of a transfer (lines 1 to 3 of R190, 1 to 4 of R194; R69, R204). -/
def admitTransfer (addr len : Nat) (s : State) : Ret Unit :=
  if s.linkUp = false then raise .notConnected s
  else if s.chanValid = false then raise .noChannel s
  else if 65536 < addr + len then raise .addressRange s
  else .ok () s

/-- A chunk read: `data <- data ++ p; R_XFER <- R_XFER + n` (line 9 of R190). The gathered bytes stand in `INBUF`. -/
def State.tookChunk (s : State) (p : List Byte) : State :=
  (s.setInbuf (s.inbuf ++ p)).setXfer (s.res.xfer + BitVec.ofNat 32 p.length)

/-- Chunks `i`, `i + 1`, ... of a read, `k` of them (lines 5 to 9 of R190). -/
def readChunks (addr len : Nat) : Nat → Nat → State → Ret Unit
  | 0, _, s => .ok () s
  | k + 1, i, s =>
    (deviceRead (chunkAddr addr i) (chunkLen len i) s).bind fun p s =>
    readChunks addr len k (i + 1) (s.tookChunk p)

/-- `ReadFlash(addr, len)` (R190); the bytes read stand in `INBUF`. -/
def readFlash (addr len : Nat) (s : State) : Ret Unit :=
  (admitTransfer addr len s).bind fun _ s =>
  readChunks addr len (chunkCount len) 0 ((s.setXfer 0).setInbuf [])

/-- Chunks `i`, `i + 1`, ... of a write, `k` of them (lines 6 to 9 of R194). -/
def writeChunks (addr : Nat) (buf : List Byte) : Nat → Nat → State → Ret Unit
  | 0, _, s => .ok () s
  | k + 1, i, s =>
    (deviceWrite (chunkAddr addr i) (chunkBytes buf i) s).bind fun _ s =>
    writeChunks addr buf k (i + 1) (s.setXfer (s.res.xfer + BitVec.ofNat 32 (chunkLen buf.length i)))

/-- `WriteFlash(addr, buf)` (R194). -/
def writeFlash (addr : Nat) (buf : List Byte) (s : State) : Ret Unit :=
  (admitTransfer addr buf.length s).bind fun _ s =>
  writeChunks addr buf (chunkCount buf.length) 0 (s.setXfer 0)

/-- The results of READ_FLASH: `INBUF`, `R_LEN <- A_LEN`, `R_XFER`, `R_ACK`. -/
def readFlashResult (_ : Unit) (t : State) : Results × List Byte :=
  ({ ack := t.res.ack, xfer := t.res.xfer, len := t.opnd.len }, t.inbuf)

/-- READ_FLASH (R190). -/
def execReadFlash (s : State) : Host.Outcome State Fault Refusal :=
  runOp 0x6 (fun t => readFlash t.opnd.addr.toNat t.opnd.len.toNat t) readFlashResult s

/-- The results of WRITE_FLASH: `R_XFER`, `R_ACK`. -/
def writeFlashResult (_ : Unit) (t : State) : Results × List Byte :=
  ({ ack := t.res.ack, xfer := t.res.xfer }, [])

/-- WRITE_FLASH (R194). -/
def execWriteFlash (s : State) : Host.Outcome State Fault Refusal :=
  runOp 0x7 (fun t => writeFlash t.opnd.addr.toNat t.outBytes t) writeFlashResult s

/-! ## Session operations (R200, R202) -/

/-- `SelectChannel(ch)` (R200): `CHAN_VALID` is cleared first and set only on success. -/
def selectChannel (ch : Byte) (s : State) : Ret Unit :=
  (deviceInit ch s.clearChan).bind fun _ s => .ok () (s.setChan ch)

/-- SELECT_CHANNEL (R200). -/
def execSelectChannel (s : State) : Host.Outcome State Fault Refusal :=
  runOp 0xC (fun t => selectChannel t.opnd.chan t) ackOnly s

/-- `ExitSession()` (R202): `CHAN_VALID` is cleared whatever follows. -/
def exitSession (s : State) : Ret Unit := (bootloaderExit s.clearChan).bind fun _ s => .ok () s

/-- EXIT_SESSION (R202). -/
def execExitSession (s : State) : Host.Outcome State Fault Refusal := runOp 0xD exitSession ackOnly s

/-! ## Rows of format E4W_REQUEST: one bare transaction (R106, R341; log entry 19) -/

/-- `A_LEN` as the length of one chunk: 1 to 256, else it has no length byte (R102, R181). -/
def oneChunk (s : State) : Ret Nat :=
  if s.opnd.len.toNat = 0 then raise .payloadEmpty s
  else if 256 < s.opnd.len.toNat then raise .payloadTooLong s
  else .ok s.opnd.len.toNat s

/-- The row E4W_DEVICE_INIT. -/
def execE4wDeviceInit (s : State) : Host.Outcome State Fault Refusal :=
  runOp 0x5 (fun t => deviceInit t.opnd.chan t) ackOnly s

/-- The row E4W_DEVICE_READ, of `A_LEN` bytes at `A_ADDR`. -/
def execE4wDeviceRead (s : State) : Host.Outcome State Fault Refusal :=
  runOp 0x5
    (fun t =>
      if t.linkUp = false then raise .notConnected t
      else (oneChunk t).bind fun n t => deviceRead t.opnd.addr n t)
    replyResult s

/-- The row E4W_DEVICE_WRITE, of `OUTBUF` at `A_ADDR`. -/
def execE4wDeviceWrite (s : State) : Host.Outcome State Fault Refusal :=
  runOp 0x5 (fun t => deviceWrite t.opnd.addr t.outBytes t) ackOnly s

/-- The row E4W_EXIT. -/
def execE4wExit (s : State) : Host.Outcome State Fault Refusal := runOp 0x5 bootloaderExit ackOnly s

/-! ## Rows of format WIRE_FRAME and E4W_LENGTH (log entries 18 and 22) -/

/-- The row E4W_REQUEST_FRAME: the request of `E4W_SEND` is built and sent, and no reply is read (lines 1 to 8 of R180, R100). -/
def execE4wRequestFrame (s : State) : Host.Outcome State Fault Refusal :=
  runOp 0x5 (fun t => e4wPut (lowByte t.opnd.cmd) t.opnd.addr t.outBytes t) ackOnly s

/-- The row E4W_REPLY_FRAME: a reply is read off the stream and checked, with no request sent (line 1 and lines 9 to 17 of R180, R101). -/
def execE4wReplyFrame (s : State) : Host.Outcome State Fault Refusal :=
  runOp 0x5 (fun t => if t.linkUp = false then raise .notConnected t else e4wReply t) replyResult s

/-- The row E4W_LENGTH_BYTE: `LenEnc(A_LEN)` in `INBUF`; a length that has no encoding is refused as `E4wSend` refuses it (R102). -/
def execE4wLengthByte (s : State) : Host.Outcome State Fault Refusal :=
  runOp 0x5 (fun t => (oneChunk t).bind fun n t => .ok [lenEnc n] t) replyResult s

/-! ## Rows of format E4W_ACK: lines 15 and 16 of R180 on one byte (R104, R185; log entry 16) -/

/-- A reply whose checksum matched carries this acknowledgement byte. -/
def receiveAck (b : Byte) (s : State) : Host.Outcome State Fault Refusal := runOp 0x5 (e4wAck b) ackOnly s

def execAckOk (s : State) : Host.Outcome State Fault Refusal := receiveAck 0x00 s
def execAckInvalidCmd (s : State) : Host.Outcome State Fault Refusal := receiveAck 0x02 s
def execAckInvalidCrc (s : State) : Host.Outcome State Fault Refusal := receiveAck 0x03 s
def execAckVerifyError (s : State) : Host.Outcome State Fault Refusal := receiveAck 0x04 s
def execAckInvalidChannel (s : State) : Host.Outcome State Fault Refusal := receiveAck 0x08 s
def execAckInvalidParam (s : State) : Host.Outcome State Fault Refusal := receiveAck 0x09 s
def execAckGeneralError (s : State) : Host.Outcome State Fault Refusal := receiveAck 0x0F s

/-- Any other byte: `CommandError(b)` "with the byte b itself" (R104). -/
def execAckUnknown (b : Byte) (s : State) : Host.Outcome State Fault Refusal := receiveAck b s

end Sys2Proof.Machine
end

