-- ==== Sys2Proof/Machine/Msp.lean ====
section
/-! DEFINITION. The MSP Transport (41_msp_transport.md): the frame built and the frame parsed (30_encoding.md R90 to R93), the operation MSP_TRANSACT, and the row MSP_FRAME. -/

namespace Sys2Proof.Machine

/-- The five header bytes of a request: flags 0, command, size (line 3 of R160, R162). -/
def mspHeader (cmd : Half) (out : List Byte) : List Byte :=
  [0x00] ++ le16 cmd ++ le16 (BitVec.ofNat 16 out.length)

/-- The whole request frame (line 4 of R160, R90, R91). -/
def mspRequest (p : Params) (cmd : Half) (out : List Byte) : List Byte :=
  [p.mspP0, p.mspP1, p.mspDirReq] ++ mspHeader cmd out ++ out ++ [crc8Of (mspHeader cmd out ++ out) p.mspPoly]

/-- The request is too long for the size field or the buffer (line 2 of R160, R93, R161). -/
def mspTooLong (p : Params) (out : List Byte) : Bool :=
  decide (65535 < out.length) || decide (p.mspMaxFrame < 9 + out.length)

/-- The declared size of a reply (line 11 of R160). -/
def mspSize (rx : List Byte) : Nat := (unle16 (rx.drop 6)).toNat

/-- Validation and copy-out of a reply: lines 8 to 15 of R160 (R165, R166, R167). -/
def mspParse (p : Params) (cap : Nat) (rx : List Byte) : Except Status (List Byte) :=
  if rx.head? ≠ some p.mspP0 then .error .badPreamble
  else if rx.length < 9 then .error .lengthMismatch
  else if rx.length ≠ 9 + mspSize rx then .error .lengthMismatch
  else if crc8Of ((rx.drop 3).take (5 + mspSize rx)) p.mspPoly ≠ rx.getD (8 + mspSize rx) 0 then
    .error .crcMismatch
  else .ok ((rx.drop 8).take (min (mspSize rx) cap))

/-- `MspTransact(cmd, out, cap)` (R160). -/
def mspTransact (cmd : Half) (out : List Byte) (cap : Nat) (s : State) : Ret (List Byte) :=
  if s.linkUp = false then raise .notConnected s
  else if mspTooLong s.cfg.params out then raise .payloadTooLong s
  else
    (streamWrite (mspRequest s.cfg.params cmd out) (s.setTx (mspRequest s.cfg.params cmd out))).bind fun w s =>
    if w < (mspRequest s.cfg.params cmd out).length then raise .shortWrite s
    else
      (streamRead s.cfg.params.mspMaxFrame s).bind fun rx s =>
      ofExcept (mspParse s.cfg.params cap rx) (s.setRx rx)

/-- The payload handed back: `INBUF` and `R_LEN`. -/
def payloadResult (k : List Byte) (_ : State) : Results × List Byte :=
  ({ len := BitVec.ofNat 32 k.length }, k)

/-- MSP_TRANSACT (R160). -/
def execMspTransact (s : State) : Host.Outcome State Fault Refusal :=
  runOp 0x4 (fun t => mspTransact t.opnd.cmd t.outBytes t.opnd.cap.toNat t) payloadResult s

/-- The row MSP_FRAME (R90): the frame in both directions, a request built and sent and a reply read, validated and copied out, which is all of `MspTransact` (log entry 18). -/
def execMspFrame (s : State) : Host.Outcome State Fault Refusal :=
  runOp 0x4 (fun t => mspTransact t.opnd.cmd t.outBytes t.opnd.cap.toNat t) payloadResult s

end Sys2Proof.Machine
end

