-- ==== Sys2Proof/Machine/Settings.lean ====
section
/-! DEFINITION. The Settings Cache (43_settings_cache.md): lookup, fetch, the read and the edit of a field, the operations FETCH, GET_FIELD and SET_FIELD, and the rows that stand for the settings block, a table entry, the codecs, the value kinds, the marker values and the diagnostic strings. -/

namespace Sys2Proof.Machine

/-- `Lookup(A_FIELD)`: the entry with that index, or `UnknownField` (R221). -/
def lookup (i : Byte) (s : State) : Ret FieldEntry :=
  match s.cfg.params.find i with
  | none => raise .unknownField s
  | some e => .ok e s

/-- `Fetch()` (R230): the bytes reach the mirror only after the transaction has passed every test. -/
def fetch (s : State) : Ret Unit :=
  (readFlash s.cfg.params.settingsBase.toNat 256 s).bind fun _ s =>
  (memWrite 0 s.inbuf s).bind fun _ s => .ok () s.setCached

/-- `if CACHED = 0: Fetch()`, the "implicit fetch-if-absent" (R22, line 2 of R231, line 7 of R232). -/
def fetchIfAbsent (s : State) : Ret Unit := if s.cached then .ok () s else fetch s

/-- FETCH (R230). -/
def execFetch (s : State) : Host.Outcome State Fault Refusal := runOp 0x8 fetch ackOnly s

/-- A value handed back on the value port: line 4 of R231 (R122). -/
def valueResult (v : Value) (t : State) : Results × List Byte :=
  match v with
  | .int x => ({ ack := t.res.ack, vkind := 0, value := BitVec.ofInt 32 x }, [])
  | .disabled => ({ ack := t.res.ack, vkind := 1 }, [])
  | .bytes bs => ({ ack := t.res.ack, vkind := 2, len := BitVec.ofNat 32 bs.length }, bs)

/-- `GET_FIELD`'s lines 1 to 3 (R231). -/
def getField (i : Byte) (s : State) : Ret Value :=
  (lookup i s).bind fun e s =>
  (fetchIfAbsent s).bind fun _ s =>
  (memRead e.offset e.width s).bind fun raw s => .ok (decodeValue e.codec raw) s

/-- GET_FIELD (R231). -/
def execGetField (s : State) : Host.Outcome State Fault Refusal :=
  runOp 0x9 (fun t => getField t.opnd.field t) valueResult s

/-- `WriteBack()`: the whole mirror to the settings region, one chunk of 256 (R233). -/
def writeBack (s : State) : Ret Unit :=
  (memRead 0 256 s).bind fun page s => writeFlash s.cfg.params.settingsBase.toNat page s

/-- `Mutate(e, raw)`: only the bytes of the field (R233). -/
def mutate (e : FieldEntry) (raw : List Byte) (s : State) : Ret Unit := memWrite e.offset raw s

/-- `SetField(e, value)`: lines 4 to 8 of R232. -/
def setField (e : FieldEntry) (v : Value) (s : State) : Ret Unit :=
  (ofExcept (encodeValue s.cfg.params.strPad e.width e.codec v) s).bind fun raw s =>
  if s.linkUp = false then raise .notConnected s
  else if s.chanValid = false then raise .noChannel s
  else
    (fetchIfAbsent s).bind fun _ s =>
    (mutate e raw s).bind fun _ s => writeBack s

/-- SET_FIELD (R232): the lookup, then the reserved kind, then the rest. -/
def execSetField (s : State) : Host.Outcome State Fault Refusal :=
  runOp 0xA
    (fun t =>
      (lookup t.opnd.field t).bind fun e t =>
      (ofExcept t.portValue t).bind fun v t => setField e v t)
    ackOnly s

/-! ## Rows of the table that stand for parts of the cache (log entries 15, 20, 21) -/

/-- The row SETTINGS_BLOCK (R110): the block is in the mirror, fetched if it was never populated. -/
def execSettingsBlock (s : State) : Host.Outcome State Fault Refusal := runOp 0x8 fetchIfAbsent ackOnly s

/-- The row FIELD_TABLE_ENTRY (R111, R221): the entry `A_FIELD` is looked up. -/
def execFieldTableEntry (s : State) : Host.Outcome State Fault Refusal :=
  runOp 0x9 (fun t => lookup t.opnd.field t) ackOnly s

/-- A codec by itself (R224 to R229): the value on the port is encoded for the entry `A_FIELD` and what `Decode` makes of the bytes is handed back. An entry of another codec is not in the table for this row. -/
def throughCodec (tag : CodecTag) (s : State) : Ret Value :=
  (lookup s.opnd.field s).bind fun e s =>
  if codecTag e.codec ≠ tag then raise .unknownField s
  else
    (ofExcept s.portValue s).bind fun v s =>
    (ofExcept (encodeValue s.cfg.params.strPad e.width e.codec v) s).bind fun raw s =>
    .ok (decodeValue e.codec raw) s

/-- The row CODEC_RAW (R225). -/
def execCodecRaw (s : State) : Host.Outcome State Fault Refusal := runOp 0x9 (throughCodec .raw) valueResult s

/-- The row CODEC_BOUNDED (R226). -/
def execCodecBounded (s : State) : Host.Outcome State Fault Refusal := runOp 0x9 (throughCodec .bounded) valueResult s

/-- The row CODEC_SCALED (R227). -/
def execCodecScaled (s : State) : Host.Outcome State Fault Refusal := runOp 0x9 (throughCodec .scaled) valueResult s

/-- The row CODEC_STRING (R229). -/
def execCodecString (s : State) : Host.Outcome State Fault Refusal := runOp 0x9 (throughCodec .string) valueResult s

/-- `SetField` of a field of the sequencer's own (R222), as the steps of `FLASH_ALL` call it. -/
def setOwnField (i : Byte) (v : Value) (s : State) : Ret Unit :=
  (lookup i s).bind fun e s => setField e v s

/-- The row MARKER_INVALID (R112, R263): the marker field is set to 0 and written back. -/
def execMarkerInvalid (s : State) : Host.Outcome State Fault Refusal :=
  runOp 0xA (fun t => setOwnField t.cfg.params.fMarker (.int 0) t) ackOnly s

/-- The row MARKER_VALID (R112, R268): the marker field is set to 1 and written back. -/
def execMarkerValid (s : State) : Host.Outcome State Fault Refusal :=
  runOp 0xA (fun t => setOwnField t.cfg.params.fMarker (.int 1) t) ackOnly s

/-- The row DIAG_FLASH_FAIL (R113, R264): the device name is set to `FLASH FAIL` and written back. -/
def execDiagFlashFail (s : State) : Host.Outcome State Fault Refusal :=
  runOp 0xA (fun t => setOwnField t.cfg.params.fName (.bytes flashFailText) t) ackOnly s

/-- The row DIAG_NOT_READY (R113, R267): the device name is set to `NOT READY` and written back. -/
def execDiagNotReady (s : State) : Host.Outcome State Fault Refusal :=
  runOp 0xA (fun t => setOwnField t.cfg.params.fName (.bytes notReadyText) t) ackOnly s

/-- The row VKIND_INT (R122): the host writes that kind to `A_VKIND` (R27). -/
def execVkindInt (s : State) : Host.Outcome State Fault Refusal := .next (s.setVkind 0)

/-- The row VKIND_DISABLED (R122). -/
def execVkindDisabled (s : State) : Host.Outcome State Fault Refusal := .next (s.setVkind 1)

/-- The row VKIND_BYTES (R122). -/
def execVkindBytes (s : State) : Host.Outcome State Fault Refusal := .next (s.setVkind 2)

/-- The row VKIND_RESERVED_KIND (R122): the register holds it, and `SET_FIELD` then raises `BadValueKind`. -/
def execVkindReserved (s : State) : Host.Outcome State Fault Refusal := .next (s.setVkind 3)

end Sys2Proof.Machine
end

