-- ==== Sys2Proof/Machine/Sequencer.lean ====
section
/-! DEFINITION. The Flash Sequencer (44_flash_sequencer.md): the eight steps and the operation FLASH_ALL. -/

namespace Sys2Proof.Machine

/-- `SEQ_STEP <- k`, then the step's procedure (R260). -/
def seqStepDo (k : BitVec 4) (p : State → Ret Unit) (s : State) : Ret Unit := p (s.setSeqStep k)

/-- Step 4: both version fields in the mirror, then one write back (R265). -/
def resetVersion (s : State) : Ret Unit :=
  (lookup s.cfg.params.fVerMajor s).bind fun major s =>
  (lookup s.cfg.params.fVerMinor s).bind fun minor s =>
  (mutate major [0x00] s).bind fun _ s =>
  (mutate minor [0x00] s).bind fun _ s => writeBack s

/-- Steps 1 to 8 (R260, R261): each begins only after the one before it has ended without error. -/
def flashSteps (fw : List Byte) (s : State) : Ret Unit :=
  (seqStepDo 1 (fun t => selectChannel t.opnd.chan t) s).bind fun _ s =>
  (seqStepDo 2 (fun t => setOwnField t.cfg.params.fMarker (.int 0) t) s).bind fun _ s =>
  (seqStepDo 3 (fun t => setOwnField t.cfg.params.fName (.bytes flashFailText) t) s).bind fun _ s =>
  (seqStepDo 4 resetVersion s).bind fun _ s =>
  (seqStepDo 5 (fun t => writeFlash t.cfg.params.fwBase.toNat fw t) s).bind fun _ s =>
  (seqStepDo 6 (fun t => setOwnField t.cfg.params.fName (.bytes notReadyText) t) s).bind fun _ s =>
  (seqStepDo 7 (fun t => setOwnField t.cfg.params.fMarker (.int 1) t) s).bind fun _ s =>
  seqStepDo 8 exitSession s

/-- `FwBytes()`, line C of R260: the image on the firmware port, which holds exactly `A_LEN` bytes (R35); another length has no meaning (U24). -/
def fwBytes (s : State) : Ret (List Byte) :=
  if s.fw.length = s.opnd.len.toNat then .ok s.fw s else .stop (.broken .firmwareSource) s

/-- `FlashAll(ch, fw)`: lines A to 8 of R260. -/
def flashAll (s : State) : Ret Unit :=
  if s.linkUp = false then raise .notConnected s
  else if 65536 < s.cfg.params.fwBase.toNat + s.opnd.len.toNat then raise .addressRange s
  else (fwBytes s).bind fun fw s => flashSteps fw s

/-- Line 9 of R260: `R_XFER <- A_LEN`, `R_ACK`, every other result 0. -/
def flashAllResult (_ : Unit) (t : State) : Results × List Byte :=
  ({ ack := t.res.ack, xfer := t.opnd.len }, [])

/-- FLASH_ALL (R260). An error inside a step is wrapped by the error entry. -/
def execFlashAll (s : State) : Host.Outcome State Fault Refusal := runOp 0xB flashAll flashAllResult s

end Sys2Proof.Machine
end

