-- ==== Sys2Proof/Machine/Dispatch.lean ====
section
/-! DEFINITION. The meaning of every instruction, one arm per constructor of Instr. -/

namespace Sys2Proof.Machine

open Sys2Proof

def exec (i : Instr) (s : State) : Host.Outcome State Fault Refusal :=
  match i with
  | .crc8 => Sys2Proof.Machine.execCrc8 s
  | .crc16x => Sys2Proof.Machine.execCrc16x s
  | .crc16r => Sys2Proof.Machine.execCrc16r s
  | .mspTransact => Sys2Proof.Machine.execMspTransact s
  | .e4wSend => Sys2Proof.Machine.execE4wSend s
  | .readFlash => Sys2Proof.Machine.execReadFlash s
  | .writeFlash => Sys2Proof.Machine.execWriteFlash s
  | .fetch => Sys2Proof.Machine.execFetch s
  | .getField => Sys2Proof.Machine.execGetField s
  | .setField => Sys2Proof.Machine.execSetField s
  | .flashAll => Sys2Proof.Machine.execFlashAll s
  | .selectChannel => Sys2Proof.Machine.execSelectChannel s
  | .exitSession => Sys2Proof.Machine.execExitSession s
  | .reservedOp0 => Sys2Proof.Machine.execReservedOp0 s
  | .reservedOpE => Sys2Proof.Machine.execReservedOpE s
  | .reservedOpF => Sys2Proof.Machine.execReservedOpF s
  | .vkindInt => Sys2Proof.Machine.execVkindInt s
  | .vkindDisabled => Sys2Proof.Machine.execVkindDisabled s
  | .vkindBytes => Sys2Proof.Machine.execVkindBytes s
  | .vkindReserved => Sys2Proof.Machine.execVkindReserved s
  | .ackOk => Sys2Proof.Machine.execAckOk s
  | .ackInvalidCmd => Sys2Proof.Machine.execAckInvalidCmd s
  | .ackInvalidCrc => Sys2Proof.Machine.execAckInvalidCrc s
  | .ackVerifyError => Sys2Proof.Machine.execAckVerifyError s
  | .ackInvalidChannel => Sys2Proof.Machine.execAckInvalidChannel s
  | .ackInvalidParam => Sys2Proof.Machine.execAckInvalidParam s
  | .ackGeneralError => Sys2Proof.Machine.execAckGeneralError s
  | .ackUnknown b => Sys2Proof.Machine.execAckUnknown b s
  | .blRun => Sys2Proof.Machine.execBlRun s
  | .blProgramFlash => Sys2Proof.Machine.execBlProgramFlash s
  | .blEraseFlash => Sys2Proof.Machine.execBlEraseFlash s
  | .blVerifyOrOther3 => Sys2Proof.Machine.execBlVerifyOrOther3 s
  | .blVerifyOrOther4 => Sys2Proof.Machine.execBlVerifyOrOther4 s
  | .blProgramEeprom => Sys2Proof.Machine.execBlProgramEeprom s
  | .blReadSram => Sys2Proof.Machine.execBlReadSram s
  | .blKeepAlive => Sys2Proof.Machine.execBlKeepAlive s
  | .blSetBuffer => Sys2Proof.Machine.execBlSetBuffer s
  | .blSetAddress => Sys2Proof.Machine.execBlSetAddress s
  | .e4wDeviceInit => Sys2Proof.Machine.execE4wDeviceInit s
  | .e4wDeviceRead => Sys2Proof.Machine.execE4wDeviceRead s
  | .e4wDeviceWrite => Sys2Proof.Machine.execE4wDeviceWrite s
  | .e4wExit => Sys2Proof.Machine.execE4wExit s
  | .mspFrame => Sys2Proof.Machine.execMspFrame s
  | .e4wRequestFrame => Sys2Proof.Machine.execE4wRequestFrame s
  | .e4wReplyFrame => Sys2Proof.Machine.execE4wReplyFrame s
  | .settingsBlock => Sys2Proof.Machine.execSettingsBlock s
  | .fieldTableEntry => Sys2Proof.Machine.execFieldTableEntry s
  | .codecRaw => Sys2Proof.Machine.execCodecRaw s
  | .codecBounded => Sys2Proof.Machine.execCodecBounded s
  | .codecScaled => Sys2Proof.Machine.execCodecScaled s
  | .codecString => Sys2Proof.Machine.execCodecString s
  | .markerInvalid => Sys2Proof.Machine.execMarkerInvalid s
  | .markerValid => Sys2Proof.Machine.execMarkerValid s
  | .diagFlashFail => Sys2Proof.Machine.execDiagFlashFail s
  | .diagNotReady => Sys2Proof.Machine.execDiagNotReady s
  | .e4wLengthByte => Sys2Proof.Machine.execE4wLengthByte s
  | .statusOk => Sys2Proof.Machine.execStatusOk s
  | .statusBadPreamble => Sys2Proof.Machine.execStatusBadPreamble s
  | .statusLengthMismatch => Sys2Proof.Machine.execStatusLengthMismatch s
  | .statusCrcMismatch => Sys2Proof.Machine.execStatusCrcMismatch s
  | .statusShortRead => Sys2Proof.Machine.execStatusShortRead s
  | .statusShortWrite => Sys2Proof.Machine.execStatusShortWrite s
  | .statusCommandError => Sys2Proof.Machine.execStatusCommandError s
  | .statusSequenceError => Sys2Proof.Machine.execStatusSequenceError s
  | .statusChannelInitError => Sys2Proof.Machine.execStatusChannelInitError s
  | .statusNotConnected => Sys2Proof.Machine.execStatusNotConnected s
  | .statusNoChannel => Sys2Proof.Machine.execStatusNoChannel s
  | .statusPayloadTooLong => Sys2Proof.Machine.execStatusPayloadTooLong s
  | .statusPayloadEmpty => Sys2Proof.Machine.execStatusPayloadEmpty s
  | .statusAddressRange => Sys2Proof.Machine.execStatusAddressRange s
  | .statusUnknownField => Sys2Proof.Machine.execStatusUnknownField s
  | .statusValueUnrepresentable => Sys2Proof.Machine.execStatusValueUnrepresentable s
  | .statusUnknownOp => Sys2Proof.Machine.execStatusUnknownOp s
  | .statusBadValueKind => Sys2Proof.Machine.execStatusBadValueKind s

end Sys2Proof.Machine
end

