-- ==== Sys2Proof/Machine/Inputs.lean ====
section
/-! DEFINITION. What the host does to the core between operations (10_state.md R23, R26, R27, R29, R31, R35, 70_reset_and_hazards.md R330, R343), and where a word is put so that the next step runs it. -/

namespace Sys2Proof.Machine

/-- An act of the host's that it may make only while `BUSY = 0`, a write (R23, R31) or its own use of the stream (R40): while `BUSY = 1` it is a breach without a meaning (R40, U20). -/
def whenIdle (s t : State) : Host.Outcome State Fault Refusal :=
  if s.busy then .fault .hostBreach else .next t

/-- The host writes an operand register (R27). -/
def hostOperand (r : OperandReg) (v : Word) (s : State) : Host.Outcome State Fault Refusal :=
  whenIdle s (s.setOpnd (writeOperand r v s.opnd))

/-- The host writes `TIMEOUT` (R26), a value of the parameter type (R8). -/
def hostTimeout (t : Timeout) (s : State) : Host.Outcome State Fault Refusal :=
  if s.cfg.params.timeoutType.has t then whenIdle s { s with timeout := t } else .fault .noSuchTimeout

/-- The host fills `OUTBUF` (R29). -/
def hostOutbuf (bs : List Byte) (s : State) : Host.Outcome State Fault Refusal :=
  whenIdle s { s with outbuf := bs }

/-- The host presents a firmware image (R35). -/
def hostFirmware (bs : List Byte) (s : State) : Host.Outcome State Fault Refusal :=
  whenIdle s { s with fw := bs }

/-- The host attaches or detaches the byte stream (R23). -/
def hostLink (up : Bool) (s : State) : Host.Outcome State Fault Refusal :=
  whenIdle s { s with linkUp := up }

/-- The host reads up to `n` bytes off the line and drops them (R343). Nothing of the core changes, and no event of the core is issued (R73). -/
def hostDrain (n : Nat) (s : State) : Host.Outcome State Fault Refusal := whenIdle s (s.setEnv (s.env.afterDrain n))

/-- The code in `OP`, as the decoder reads it: one byte whose upper four bits are zero. -/
def opWord (s : State) : List Byte := [s.opnd.op.setWidth 8]

/-- The place a word of this many bits is put in, and its bytes: the register `OP` for an operation code, else the place whose code it is (log entry 24). A word of no format is presented as a status code, which it is not either. -/
def fetchPlace (w : Nat) : CodeSpace := (wordSpace w).getD .status

/-- The state with a word where the next step fetches its instruction: `OP` holds an operation code and the host strobes `START`, or the byte is presented in its place. `BUSY` is 0, as a `START` needs. -/
def placeWord (w : Nat) (s : State) : State :=
  match fetchPlace w with
  | .hostOp =>
    { s with opnd := { s.opnd with op := BitVec.ofNat 4 w }, busy := false, inputs := .start :: s.inputs }
  | sp => { s with busy := false, inputs := .present sp [BitVec.ofNat 8 w] :: s.inputs }

end Sys2Proof.Machine
end

