-- ==== Sys2Proof/Machine/Step.lean ====
section
/-! DEFINITION. One step of the machine: the next thing the host does. A `START` with `BUSY = 0` carries out the operation in `OP` from its start to its end (10_state.md R31). -/

namespace Sys2Proof.Machine

/-- Run what the bytes mean in the place they stand in. -/
def runCode (sp : CodeSpace) (bs : List Byte) (s : State) : Host.Outcome State Fault Refusal :=
  match decode s.cfg.params sp bs with
  | .ok i => exec i s
  | .error why => .refused (.undecodable why)

/-- What one host input does. A `START` while `BUSY = 1` is ignored (R31), and so is a code presented then. -/
def hostStep (x : HostInput) (s : State) : Host.Outcome State Fault Refusal :=
  match x with
  | .start => if s.busy then .next s else runCode .hostOp (opWord s) s
  | .present sp bs => if s.busy then .next s else runCode sp bs s
  | .operand r v => hostOperand r v s
  | .timeout t => hostTimeout t s
  | .outbuf bs => hostOutbuf bs s
  | .firmware bs => hostFirmware bs s
  | .link up => hostLink up s
  | .drain n => hostDrain n s
  | .reset => .next s.newSession

/-- One step: the host's next input is taken from the list and acts; with none left the core is idle. -/
def step (s : State) : Host.Outcome State Fault Refusal :=
  match s.inputs with
  | [] => .next s
  | x :: rest => hostStep x (s.setInputs rest)

/-- `s` with the word `w` where the next step fetches its instruction. Every word of the table is one byte, so there is nothing above `nbits`. -/
def State.withFetchWord (s : State) (_nbits w : Nat) : State := placeWord w s

end Sys2Proof.Machine
end

