-- ==== Sys2Proof/Safety.lean ====
section
/-! DEFINITION. The terms claims about the core are stated in: what an operation leaves alone, what holds between operations, a reply of the peer and a peer that answers every transaction, and fields of the settings block that do not overlap. -/

namespace Sys2Proof.Machine

/-! ## What an operation leaves alone -/

/-- Nothing the host or the instantiator gives the core has changed: the parameters, `TIMEOUT`, the operand registers, `OUTBUF`, `LINK_UP`, the firmware port and the host's coming inputs. -/
def SameHost (s t : State) : Prop :=
  t.cfg = s.cfg ∧ t.timeout = s.timeout ∧ t.opnd = s.opnd ∧ t.outbuf = s.outbuf ∧
    t.linkUp = s.linkUp ∧ t.fw = s.fw ∧ t.inputs = s.inputs

/-- Every byte of the mirror reads as before, and `CACHED` is as before. -/
def SameCache (s t : State) : Prop :=
  t.cached = s.cached ∧ ∀ a, readByte t.mem a = readByte s.mem a

/-- `CHAN_VALID` and `CHAN` are as before. -/
def SameChannel (s t : State) : Prop := t.chanValid = s.chanValid ∧ t.chan = s.chan

/-- No stream event was issued and no answer of the environment taken. -/
def NoStream (s t : State) : Prop := t.events = s.events ∧ t.env = s.env

/-- An operation has ended: `SEQ_STEP` and `BUSY` are 0, `DONE` is 1 (R25, R31). -/
def Ended (t : State) : Prop := t.seqStep = 0 ∧ t.busy = false ∧ t.done = true

/-- A new session has begun: the values R39 gives at reset, with the parameters, the ports and the host's coming inputs as they were (log entry 9). -/
def NewSession (s t : State) : Prop :=
  t.cached = false ∧ t.chanValid = false ∧ t.seqStep = 0 ∧ t.res.status = 0x00 ∧ t.busy = false ∧ t.done = false ∧
    t.cfg = s.cfg ∧ t.linkUp = s.linkUp ∧ t.fw = s.fw ∧ t.inputs = s.inputs

/-- The same state with a host that resets the core during no operation (R332). -/
def State.undisturbed (s : State) : State := s.setEnv { s.env with abandon := [] }

/-- What holds between operations: the mirror in its canonical form, no operation running, nothing left in the packet buffers (R30), a value of the parameter type in `TIMEOUT` (R26), legal codes in `R_STATUS` and `R_CAUSE` (R290), a step of 0 to 8 in `R_STEP` and no reserved kind in `R_VKIND` (R28), and `R_LEN` "number of valid bytes in `INBUF`" (R28). -/
def State.inv (s : State) : Prop :=
  Memory.wf s.mem ∧ s.busy = false ∧ s.seqStep = 0 ∧ s.txbuf = [] ∧ s.rxbuf = [] ∧
    s.cfg.params.timeoutType.has s.timeout = true ∧
    s.res.status ∈ statusCodes ∧ s.res.cause ∈ statusCodes ∧ s.res.step.toNat ≤ 8 ∧
    s.res.vkind ≠ 3 ∧ s.res.len.toNat = s.inbuf.length

/-! ## Replies and peers -/

/-- An ESC4Way reply (R101) less its acknowledgement: the bytes the core does not examine, and the payload. -/
structure Reply where
  escape  : Byte
  command : Byte
  addr    : Half
  payload : List Byte
deriving DecidableEq, Repr

/-- The payload has a length byte (R102). -/
def Reply.wf (r : Reply) : Prop := 1 ≤ r.payload.length ∧ r.payload.length ≤ 256

/-- The five header bytes of the reply (R101). -/
def Reply.head (r : Reply) : List Byte :=
  [r.escape, r.command] ++ be16 r.addr ++ [lenEnc r.payload.length]

/-- The bytes after the header with this acknowledgement, under a good checksum (R101). -/
def Reply.tail (r : Reply) (ack : Byte) : List Byte :=
  r.payload ++ [ack] ++ be16 (crc16xOf (r.head ++ r.payload ++ [ack]) 0)

/-- The two reads in which the core takes an acknowledged reply (R103). -/
def Reply.reads (r : Reply) : List (List Byte) := [r.head, r.tail 0]

/-- The environment takes every request whole and answers the coming transactions with these replies, each acknowledged with 0x00. -/
def Env.answers (e : Env) (rs : List Reply) : Prop :=
  e.abandon = [] ∧ e.line = [] ∧ (∀ r ∈ rs, r.wf) ∧ rs.length ≤ e.accepts.length ∧
    (∀ n ∈ e.accepts.take rs.length, 263 ≤ n) ∧ rs.flatMap Reply.reads <+: e.arrivals

/-- The stream events of one transaction that ends `OK` (R180, R189): the request, the header, the rest. -/
def transactionEvents (step : BitVec 4) (p : Params) (t : Timeout) (cmd : Byte) (addr : Half)
    (out : List Byte) (r : Reply) : List StreamEvent :=
  [.write step (e4wRequest p cmd addr out) (e4wRequest p cmd addr out).length,
   .read step 5 t r.head,
   .read step (r.payload.length + 3) t (r.tail 0)]

/-- The environment after `k` transactions of such a peer: `k` writes taken, `2 * k` reads answered. -/
def Env.afterAnswers (e : Env) (k : Nat) : Env :=
  { e with accepts := e.accepts.drop k, arrivals := e.arrivals.drop (2 * k) }

/-- The state after one transaction of the procedure `E4wSend` that ends `OK` with reply `r` (R180): the frames in the packet buffers, the acknowledgement 0x00 in `R_ACK`, three stream events, and nothing else. -/
def State.afterTransaction (s : State) (cmd : Byte) (addr : Half) (out : List Byte) (r : Reply) : State :=
  { s with
      txbuf := e4wRequest s.cfg.params cmd addr out
      rxbuf := r.head ++ r.tail 0
      res := { s.res with ack := 0 }
      env := s.env.afterAnswers 1
      events := s.events ++ transactionEvents s.seqStep s.cfg.params s.timeout cmd addr out r }

/-- The stream events of a chunked read of `len` bytes at `addr` whose transactions end `OK` with these replies (R68, R190). -/
def readEvents (step : BitVec 4) (p : Params) (t : Timeout) (addr len : Nat) (rs : List Reply) : List StreamEvent :=
  rs.zipIdx.flatMap fun x =>
    transactionEvents step p t p.cmdDeviceRead (chunkAddr addr x.2) [lenEnc (chunkLen len x.2)] x.1

/-- The stream events of a chunked write of `buf` at `addr` whose transactions end `OK` with these replies (R68, R194). -/
def writeEvents (step : BitVec 4) (p : Params) (t : Timeout) (addr : Nat) (buf : List Byte) (rs : List Reply) :
    List StreamEvent :=
  rs.zipIdx.flatMap fun x =>
    transactionEvents step p t p.cmdDeviceWrite (chunkAddr addr x.2) (chunkBytes buf x.2) x.1

/-- The stream events of a write back of a page that ends `OK` with reply `r` (R233). -/
def pageEvents (step : BitVec 4) (p : Params) (t : Timeout) (page : List Byte) (r : Reply) : List StreamEvent :=
  transactionEvents step p t p.cmdDeviceWrite p.settingsBase page r

/-- The stream events of a fetch that ends `OK` with reply `r` (R230). -/
def fetchEvents (step : BitVec 4) (p : Params) (t : Timeout) (r : Reply) : List StreamEvent :=
  transactionEvents step p t p.cmdDeviceRead p.settingsBase [0x00] r

/-- The bytes of an MSP reply with header bytes `f`, `c` and payload `q` (R90, R169). -/
def mspReply (p : Params) (b1 b2 f : Byte) (c : Half) (q : List Byte) : List Byte :=
  [p.mspP0, b1, b2] ++ ([f] ++ le16 c ++ le16 (BitVec.ofNat 16 q.length)) ++ q ++
    [crc8Of (([f] ++ le16 c ++ le16 (BitVec.ofNat 16 q.length)) ++ q) p.mspPoly]

/-- The stream events of a transaction that ended `OK`: the request went out whole, header and rest came whole, the checksum matched and the acknowledgement was 0x00 (R180). -/
def acknowledged (es : List StreamEvent) : Prop :=
  ∃ k t tx h b, es = [.write k tx tx.length, .read k 5 t h, .read k (lenDec (h.getD 4 0) + 3) t b] ∧
    h.length = 5 ∧ b.length = lenDec (h.getD 4 0) + 3 ∧
    crc16xOf (h ++ b.take (lenDec (h.getD 4 0) + 1)) 0 = unbe16 (b.drop (lenDec (h.getD 4 0) + 1)) ∧
    b.getD (lenDec (h.getD 4 0)) 0 = 0x00

/-- The step of `FLASH_ALL` in which a stream event was issued, 0 outside it (R25, R73; log entry 13). -/
def StreamEvent.step : StreamEvent → BitVec 4
  | .write k _ _ => k
  | .read k _ _ _ => k

/-- The declared length of the reply in the three events of a transaction (R103). -/
def repliedLength : List StreamEvent → Nat
  | [_, .read _ _ _ h, _] => lenDec (h.getD 4 0)
  | _ => 0

/-- The stream events of a chunk of `n` bytes of a transfer that ended `OK`: acknowledged, and for a read with a payload of exactly `n` bytes (R190, R192, R194). -/
def chunkDone (i : Instr) (n : Nat) (es : List StreamEvent) : Prop :=
  acknowledged es ∧ (i = .readFlash → repliedLength es = n)

/-- The bytes with bit `b` of byte `k` changed. -/
def flipBit (bs : List Byte) (k b : Nat) : List Byte := bs.set k (bs.getD k 0 ^^^ ((1 : Byte) <<< b))

/-- The bytewise exclusive or of two runs of bytes (R143, R148). -/
def xorBytes (a b : List Byte) : List Byte := List.zipWith (· ^^^ ·) a b

/-! ## Operand registers (R27) -/

/-- The width of an operand register. -/
def operandWidth : OperandReg → Nat
  | .op => 4
  | .cmd => 16
  | .addr => 16
  | .len => 32
  | .poly => 8
  | .seed => 16
  | .cap => 32
  | .field => 8
  | .vkind => 2
  | .value => 32
  | .chan => 8

/-- The value an operand register holds, as an unsigned number. -/
def readOperand (o : Operands) : OperandReg → Nat
  | .op => o.op.toNat
  | .cmd => o.cmd.toNat
  | .addr => o.addr.toNat
  | .len => o.len.toNat
  | .poly => o.poly.toNat
  | .seed => o.seed.toNat
  | .cap => o.cap.toNat
  | .field => o.field.toNat
  | .vkind => o.vkind.toNat
  | .value => o.value.toNat
  | .chan => o.chan.toNat

/-! ## Lists of instructions claims name -/

/-- The operations in the order of their codes in `OP` (R120). -/
def operations : List Instr :=
  [.reservedOp0, .crc8, .crc16x, .crc16r, .mspTransact, .e4wSend, .readFlash, .writeFlash, .fetch, .getField,
   .setField, .flashAll, .selectChannel, .exitSession, .reservedOpE, .reservedOpF]

/-- The rows of the bootloader sub-protocol with their codes (R118). -/
def bootloaderRows : List (Instr × Byte) :=
  [(.blRun, 0x00), (.blProgramFlash, 0x01), (.blEraseFlash, 0x02), (.blVerifyOrOther3, 0x03),
   (.blVerifyOrOther4, 0x04), (.blProgramEeprom, 0x05), (.blReadSram, 0x06), (.blKeepAlive, 0xFD),
   (.blSetBuffer, 0xFE), (.blSetAddress, 0xFF)]

/-- The rows that are a host write of `A_VKIND`, with the kind each writes (R122). -/
def valueKindRows : List (Instr × BitVec 2) :=
  [(.vkindInt, 0), (.vkindDisabled, 1), (.vkindBytes, 2), (.vkindReserved, 3)]

/-- The instructions that may write the mirror or `CACHED` (R21, R22). -/
def cacheInstrs : List Instr :=
  [.fetch, .getField, .setField, .flashAll, .settingsBlock, .markerInvalid, .markerValid, .diagFlashFail,
   .diagNotReady]

/-- The instructions that may write `CHAN_VALID` or `CHAN` (R24). -/
def channelInstrs : List Instr := [.selectChannel, .exitSession, .flashAll]

/-- The status codes that the error entry writes by itself: every one but `OK`, `CommandError`, which keeps the acknowledgement, and the two wrappings (R290). -/
def statusRows : List (Instr × Status) :=
  [(.statusBadPreamble, .badPreamble), (.statusLengthMismatch, .lengthMismatch), (.statusCrcMismatch, .crcMismatch),
   (.statusShortRead, .shortRead), (.statusShortWrite, .shortWrite), (.statusNotConnected, .notConnected),
   (.statusNoChannel, .noChannel), (.statusPayloadTooLong, .payloadTooLong), (.statusPayloadEmpty, .payloadEmpty),
   (.statusAddressRange, .addressRange), (.statusUnknownField, .unknownField),
   (.statusValueUnrepresentable, .valueUnrepresentable), (.statusUnknownOp, .unknownOp),
   (.statusBadValueKind, .badValueKind)]

/-! ## Fields of the settings block -/

/-- Two entries share no byte. -/
def fieldsApart (e f : FieldEntry) : Prop := e.offset + e.width ≤ f.offset ∨ f.offset + f.width ≤ e.offset

/-- The four fields the sequencer writes (R222) are `m`, `j`, `n` and `d`, and no two of them share a byte. R111 lets entries overlap; the fail-safe claims (R271) speak of tables where these four do not. -/
def ownFields (p : Params) (m j n d : FieldEntry) : Prop :=
  p.find p.fMarker = some m ∧ p.find p.fVerMajor = some j ∧ p.find p.fVerMinor = some n ∧
    p.find p.fName = some d ∧ fieldsApart m j ∧ fieldsApart m n ∧ fieldsApart m d ∧ fieldsApart j n ∧
    fieldsApart j d ∧ fieldsApart n d

/-- The byte `a` of the mirror after a field edit: the field's bytes are `raw`, every other byte is that of the page before. -/
def editedByte (page : Nat → Byte) (e : FieldEntry) (raw : List Byte) (a : Nat) : Byte :=
  if e.offset ≤ a ∧ a < e.offset + e.width then raw.getD (a - e.offset) 0 else page a

/-- The bytes of the mirror after a fetch of these bytes. -/
def fetchedByte (page : Nat → Byte) (bs : List Byte) (a : Nat) : Byte := if a < bs.length then bs.getD a 0 else page a

/-- The 256 bytes of the settings region (R62). -/
def pageBytes (page : Nat → Byte) : List Byte := (List.range 256).map page

/-- The page after step 2 of `FLASH_ALL` (R263). -/
def page2 (m : FieldEntry) (page : Nat → Byte) : Nat → Byte := editedByte page m [0x00]

/-- The page after step 3 (R264). -/
def page3 (p : Params) (m d : FieldEntry) (page : Nat → Byte) : Nat → Byte :=
  editedByte (page2 m page) d (flashFailText ++ [p.strPad, p.strPad])

/-- The page after step 4 (R265). -/
def page4 (p : Params) (m j n d : FieldEntry) (page : Nat → Byte) : Nat → Byte :=
  editedByte (editedByte (page3 p m d page) j [0x00]) n [0x00]

/-- The page after step 6 (R267). -/
def page6 (p : Params) (m j n d : FieldEntry) (page : Nat → Byte) : Nat → Byte :=
  editedByte (page4 p m j n d page) d (notReadyText ++ [p.strPad, p.strPad, p.strPad])

/-- The page after step 7 (R268). -/
def page7 (p : Params) (m j n d : FieldEntry) (page : Nat → Byte) : Nat → Byte :=
  editedByte (page6 p m j n d page) m [0x01]

/-- The stream events of a `FLASH_ALL` whose every transaction ends `OK`: `q` is the reply of the fetch, if step 2 makes one, and `page` the settings page step 2 starts from (R260, R261). -/
def flashEvents (s : State) (m j n d : FieldEntry) (page : Nat → Byte) (r1 : Reply) (q : Option Reply)
    (r2 r3 r4 : Reply) (rf : List Reply) (r6 r7 r8 : Reply) : List StreamEvent :=
  transactionEvents 1 s.cfg.params s.timeout s.cfg.params.cmdDeviceInit 0 [s.opnd.chan] r1 ++
    q.toList.flatMap (fetchEvents 2 s.cfg.params s.timeout) ++
    pageEvents 2 s.cfg.params s.timeout (pageBytes (page2 m page)) r2 ++
    pageEvents 3 s.cfg.params s.timeout (pageBytes (page3 s.cfg.params m d page)) r3 ++
    pageEvents 4 s.cfg.params s.timeout (pageBytes (page4 s.cfg.params m j n d page)) r4 ++
    writeEvents 5 s.cfg.params s.timeout s.cfg.params.fwBase.toNat s.fw rf ++
    pageEvents 6 s.cfg.params s.timeout (pageBytes (page6 s.cfg.params m j n d page)) r6 ++
    pageEvents 7 s.cfg.params s.timeout (pageBytes (page7 s.cfg.params m j n d page)) r7 ++
    transactionEvents 8 s.cfg.params s.timeout s.cfg.params.cmdExit 0 [0x00] r8

end Sys2Proof.Machine
end

