-- ==== Sys2Proof/Certificates/Slice0/Obligations.lean ====
section
/-! DEFINITION. The statements for the provers, about the machine alone: encodings, one step, the frames and invariants of all instructions, and what each operation does. OBLIGATIONS.json lists them with the rules they cite. -/

open Sys2Proof Sys2Proof.Machine

/-! ## Encoding and the step -/

/-- Decoding and encoding agree in both directions (30_encoding.md R102, R104, R112, R113, R118, R120 to R122, 60_exceptions.md R290): bytes in a place mean an instruction exactly when they are what the encoder writes for it there. The positions of the rows without a code are the model's choice (log entry 24). -/
def Obligations.DecodeEncodeAgree : Prop :=
  ∀ (p : Params) (sp : CodeSpace) (bs : List Byte) (i : Instr), p.cmdsDistinct = true →
    (decode p sp bs = .ok i ↔ i.wf = true ∧ encode p i = (sp, bs))

/-- Words written out from the tables of 30_encoding.md and 60_exceptions.md decode to the instruction they stand for, and codes without a meaning to none. -/
def Obligations.DecodesWrittenWords : Prop :=
  ∀ p : Params,
    decode p .hostOp [0x06] = .ok .readFlash ∧ decode p .hostOp [0x0B] = .ok .flashAll ∧
    decode p .hostOp [0x10] = .error (.unassigned .hostOp 0x10) ∧
    decode p .valueKind [0x01] = .ok .vkindDisabled ∧
    decode p .ack [0x09] = .ok .ackInvalidParam ∧ decode p .ack [0x7F] = .ok (.ackUnknown 0x7F) ∧
    decode p .blCmd [0xFE] = .ok .blSetBuffer ∧
    decode p .blCmd [0x07] = .error (.unassigned .blCmd 0x07) ∧
    decode p .e4wRequest [p.cmdDeviceInit] = .ok .e4wDeviceInit ∧
    decode p .marker [0x01] = .ok .markerValid ∧
    decode p .diag [0x46, 0x4C, 0x41, 0x53, 0x48, 0x20, 0x46, 0x41, 0x49, 0x4C] = .ok .diagFlashFail ∧
    decode p .diag [0x4E, 0x4F, 0x54, 0x20, 0x52, 0x45, 0x41, 0x44, 0x59] = .ok .diagNotReady ∧
    decode p .status [0x31] = .ok .statusChannelInitError ∧
    decode p .status [0x15] = .error (.unassigned .status 0x15)

/-- A step runs the decoded instruction (10_state.md R31): a `START` with `BUSY = 0` runs what `OP` decodes to, and every code of `OP` is the operation R120 gives it; bytes presented elsewhere run what they decode to there (log entry 2). The input is consumed first. -/
def Obligations.StepRunsDecoded : Prop :=
  ∀ (s : State) (rest : List HostInput), s.busy = false →
    (s.inputs = .start :: rest →
      ∃ i, operations[s.opnd.op.toNat]? = some i ∧
        decode s.cfg.params .hostOp [s.opnd.op.setWidth 8] = .ok i ∧ step s = exec i { s with inputs := rest }) ∧
    (∀ sp bs i, s.inputs = .present sp bs :: rest → decode s.cfg.params sp bs = .ok i →
      step s = exec i { s with inputs := rest })

/-- What the host may do between operations, and what happens while one runs (R23, R26, R27, R29, R31, R35, R40, R343): a `START` while `BUSY = 1` is ignored, and so are bytes presented then (log entry 26); a write while `BUSY = 1` is a breach, at which the model stops (log entry 12); a write while `BUSY = 0` changes that register alone, an operand register taking the low bits of the value at its width. `TIMEOUT` takes the values of its parameter type, and the model stops at a number that names none (log entry 6). The host can read bytes off the line while `BUSY = 0`, those no read has taken first, and enough of them empty it; the core issues no event (R343; how many bytes have arrived by then is a matter of the script, log entry 7). -/
def Obligations.HostInputs : Prop :=
  ∀ (s : State) (rest : List HostInput),
    (s.inputs = [] → step s = .next s) ∧
    (s.busy = true → s.inputs = .start :: rest → step s = .next { s with inputs := rest }) ∧
    (∀ sp bs, s.busy = true → s.inputs = .present sp bs :: rest → step s = .next { s with inputs := rest }) ∧
    (∀ r v, s.inputs = .operand r v :: rest → s.busy = true → step s = .fault .hostBreach) ∧
    (∀ r v, s.inputs = .operand r v :: rest → s.busy = false →
      ∃ o, step s = .next { s with inputs := rest, opnd := o } ∧
        readOperand o r = v.toNat % 2 ^ operandWidth r ∧
        ∀ q, q ≠ r → readOperand o q = readOperand s.opnd q) ∧
    (∀ t, s.inputs = .timeout t :: rest →
      step s = if s.cfg.params.timeoutType.has t = false then .fault .noSuchTimeout
        else if s.busy then .fault .hostBreach else .next { s with inputs := rest, timeout := t }) ∧
    (∀ bs, s.inputs = .outbuf bs :: rest →
      step s = if s.busy then .fault .hostBreach else .next { s with inputs := rest, outbuf := bs }) ∧
    (∀ bs, s.inputs = .firmware bs :: rest →
      step s = if s.busy then .fault .hostBreach else .next { s with inputs := rest, fw := bs }) ∧
    (∀ up, s.inputs = .link up :: rest →
      step s = if s.busy then .fault .hostBreach else .next { s with inputs := rest, linkUp := up }) ∧
    (∀ n, s.inputs = .drain n :: rest → s.busy = true → step s = .fault .hostBreach) ∧
    (∀ n, s.inputs = .drain n :: rest → s.busy = false →
      ∃ line, step s = .next { s with inputs := rest, env := { s.env with line := line, arrivals := s.env.arrivals.tail } } ∧
        line = (s.env.line ++ s.env.arrivals.headD []).drop n ∧
        (s.env.line.length + (s.env.arrivals.headD []).length ≤ n → line = []))

/-- A reset begins a new session (70_reset_and_hazards.md R330, R331): the values R39 gives, and nothing sent or taken on the stream; the state after power-on has the same values. That the ports keep what the host put there over a reset is the model's reading (log entry 9). -/
def Obligations.ResetSession : Prop :=
  (∀ (s : State) (rest : List HostInput), s.inputs = .reset :: rest →
    ∃ t, step s = .next t ∧ t.cached = false ∧ t.chanValid = false ∧ t.seqStep = 0 ∧ t.res.status = 0x00 ∧
      t.busy = false ∧ t.done = false ∧ t.events = s.events ∧ t.env = s.env ∧ t.cfg = s.cfg ∧ t.linkUp = s.linkUp ∧
      t.fw = s.fw ∧ t.inputs = rest) ∧
  State.reset.cached = false ∧ State.reset.chanValid = false ∧ State.reset.seqStep = 0 ∧
    State.reset.res.status = 0x00 ∧ State.reset.busy = false ∧ State.reset.done = false ∧ State.reset.events = []

/-- An operation the host abandons by a reset (R332), whatever the operation: the event list ends wherever it was, which is the first events of the same operation left to run to its end (`u`), and what is left is the state of a new session with the ports as they were. The operation is abandoned exactly when it has a stream call beyond those the host lets pass; the resets to come after this one (`ks`) still stand. Last, `E4W_SEND` abandoned at its first, second or third stream call. That the reset lands at a stream call, and what stays of the ports, is the model's choice (log entry 9); that a row which is no operation can be abandoned too is its reading of those rows (log entries 18 to 21). -/
def Obligations.AbandonedOperation : Prop :=
  (∀ (i : Instr) (s t : State), exec i s = .next t → t.env.abandon.length < s.env.abandon.length →
    NewSession s t ∧
    ∃ (u : State) (es more : List StreamEvent) (k : Nat), exec i s.undisturbed = .next u ∧
      s.env.abandon = k :: t.env.abandon ∧ es.length = k ∧ more ≠ [] ∧
      t.events = s.events ++ es ∧ u.events = s.events ++ es ++ more) ∧
  (∀ (i : Instr) (s u : State) (k : Nat) (ks : List Nat) (es : List StreamEvent), s.env.abandon = k :: ks →
    exec i s.undisturbed = .next u → u.events = s.events ++ es →
    (k < es.length →
      ∃ t, exec i s = .next t ∧ NewSession s t ∧ t.events = s.events ++ es.take k ∧ t.env.abandon = ks) ∧
    (es.length ≤ k →
      exec i s = .next { u with env := { u.env with abandon := (k - es.length) :: ks } })) ∧
  (∀ (s : State) (k n : Nat) (ks ns : List Nat) (h b : List Byte) (xs : List (List Byte)),
    s.linkUp = true → 1 ≤ s.outBytes.length → s.outBytes.length ≤ 256 → s.env.line = [] →
    s.env.accepts = n :: ns → 263 ≤ n → s.env.arrivals = h :: b :: xs → h.length = 5 → b.length = lenDec (h.getD 4 0) + 3 →
    s.env.abandon = k :: ks → k < 3 →
    ∃ t, exec .e4wSend s = .next t ∧ NewSession s t ∧ t.env.abandon = ks ∧
      t.events = s.events ++
        [StreamEvent.write 0 (e4wRequest s.cfg.params (lowByte s.opnd.cmd) s.opnd.addr s.outBytes)
            (7 + s.opnd.len.toNat), .read 0 5 s.timeout h].take k)

/-- What holds between operations is kept by every step: the mirror's canonical form, no operation running, empty packet buffers, a value of its type in `TIMEOUT`, and legal codes and lengths in the result registers (R26, R28, R30, R31, R290). That `INBUF` holds exactly `R_LEN` bytes is the model's reading (log entry 11); after a reset, and after an operation a reset abandoned, `R_CAUSE`, `R_STEP`, `R_VKIND`, `R_LEN`, `TIMEOUT` and the buffers have the values of log entry 3, which R28 and R39 leave unspecified (log entry 9). -/
def Obligations.InvariantKept : Prop := ∀ s t : State, s.inv → step s = .next t → t.inv

/-- The same holds right after reset: `BUSY`, `SEQ_STEP` and `R_STATUS` by R39; `R_CAUSE`, `R_STEP`, `R_VKIND`, `R_LEN`, `TIMEOUT`, the buffers and the mirror by the model's choice of what R39 leaves unspecified (log entries 3 and 4). -/
def Obligations.InvariantAtReset : Prop := State.reset.inv

/-- The stream events of a run are one list that only grows (20_memory.md R73), and every call keeps the bounds of R12; `TIMEOUT` goes unchanged into every read (R26). -/
def Obligations.EventsOnlyAppended : Prop :=
  ∀ s t : State, step s = .next t → ∃ new, t.events = s.events ++ new ∧
    ∀ e ∈ new, (∀ k bs n, e = .write k bs n → n ≤ bs.length) ∧
      (∀ k max tt bs, e = .read k max tt bs → tt = s.timeout ∧ bs.length ≤ max)

/-! ## All instructions -/

/-- With `LINK_UP = 0` no instruction issues a stream event, and every operation that needs the stream at its first test ends with `NotConnected` (42_esc4way_transport.md R204, R200, R202): every other result register is 0, and `CHAN_VALID` is cleared by a select or an exit. Of the rows listed the first eight are operations of the spec. The other seven are not, and what such a row does by itself, that it needs `LINK_UP` among it, is the model's reading: `E4W_DEVICE_INIT`, `E4W_DEVICE_READ`, `E4W_DEVICE_WRITE` and `E4W_EXIT` by log entry 19, `MSP_FRAME`, `E4W_REQUEST_FRAME` and `E4W_REPLY_FRAME` by log entry 18. -/
def Obligations.LinkDown : Prop :=
  (∀ (i : Instr) (s t : State), s.linkUp = false → exec i s = .next t → NoStream s t) ∧
  (∀ (i : Instr) (s : State), s.linkUp = false →
    i ∈ [Instr.mspTransact, .e4wSend, .readFlash, .writeFlash, .fetch, .flashAll, .selectChannel, .exitSession,
         .e4wDeviceInit, .e4wDeviceRead, .e4wDeviceWrite, .e4wExit, .mspFrame, .e4wRequestFrame, .e4wReplyFrame] →
    exec i s = .next
      ({ s with chanValid := s.chanValid && decide (i ≠ Instr.selectChannel ∧ i ≠ Instr.exitSession) }.endOp
        { status := 0x40 } []))

/-- The model stops with a fault in an operation only where `FLASH_ALL` meets a firmware source of another length (R35); in particular no rule reaches a mirror byte that does not exist (R12). -/
def Obligations.FaultsOnlyForFirmware : Prop :=
  ∀ (i : Instr) (s : State) (f : Fault),
    exec i s = .fault f ↔
      i = .flashAll ∧ f = .firmwareSource ∧ s.linkUp = true ∧
        s.cfg.params.fwBase.toNat + s.opnd.len.toNat ≤ 65536 ∧ s.fw.length ≠ s.opnd.len.toNat

/-- The rows of the bootloader sub-protocol stop in every state, each under its code: "The core never builds, sends or parses a frame of this sub-protocol" (30_encoding.md R118). -/
def Obligations.BootloaderRowsRefused : Prop :=
  ∀ (i : Instr) (code : Byte) (s : State), (i, code) ∈ bootloaderRows →
    exec i s = .refused (.bootloaderSubProtocol code)

/-- Every other instruction answers a next state, whatever the host has written and the peer answers (R350: "Every operation ends"), but for `FLASH_ALL` under a firmware source of the wrong length, where the model stops (R35; log entry 12). That every `StreamWrite` returns is taken for granted (log entry 28). -/
def Obligations.OthersAnswerNext : Prop :=
  ∀ (i : Instr) (s : State), (∀ code, (i, code) ∉ bootloaderRows) →
    (i = .flashAll → s.fw.length = s.opnd.len.toNat) → ∃ t, exec i s = .next t

/-- An operation that is not abandoned ends with `BUSY = 0`, `DONE = 1`, `SEQ_STEP = 0` and a code of R290 in `R_STATUS` (R25, R31, R300). Said of every row but the value kinds, which are host writes; the rows of STATUS_CODE that wrap `R_STATUS` are the model's own reading (log entry 17). -/
def Obligations.OperationEnds : Prop :=
  ∀ (i : Instr) (s t : State), (∀ k, (i, k) ∉ valueKindRows) → s.env.abandon = [] → exec i s = .next t →
    Ended t ∧ t.res.status ∈ statusCodes

/-- At the end of an operation that is not abandoned every result register its rule does not name is 0 (R28, R295, R300). That `INBUF` is empty and `R_ACK` 0 where nothing was handed back or acknowledged is the model's reading (log entries 11 and 27). -/
def Obligations.UnnamedResultsZero : Prop :=
  ∀ (i : Instr) (s t : State), i ∈ operations → s.env.abandon = [] → exec i s = .next t →
    (i ∉ [Instr.crc8, .crc16x, .crc16r] → t.res.crc = 0) ∧
    (i ≠ .getField → t.res.vkind = 0 ∧ t.res.value = 0) ∧
    (i ≠ .flashAll → t.res.step = 0 ∧ t.res.cause = 0) ∧
    (i ∉ [Instr.readFlash, .writeFlash, .flashAll] → t.res.xfer = 0) ∧
    (i ∉ [Instr.mspTransact, .e4wSend, .readFlash, .getField] → t.res.len = 0 ∧ t.inbuf = []) ∧
    (i ∉ [Instr.readFlash] → t.res.status ≠ 0 → t.res.len = 0 ∧ t.inbuf = []) ∧
    (i ∈ [Instr.crc8, .crc16x, .crc16r, .mspTransact, .reservedOp0, .reservedOpE, .reservedOpF] → t.res.ack = 0)

/-- FRAME of the host's side: no operation writes a parameter, an operand register, `TIMEOUT`, `OUTBUF`, a port or the host's coming inputs (R27, R26, R23). Said of every row but the value kinds. -/
def Obligations.HostStateKept : Prop :=
  ∀ (i : Instr) (s t : State), (∀ k, (i, k) ∉ valueKindRows) → s.env.abandon = [] → exec i s = .next t →
    SameHost s t

/-- FRAME of the mirror and the channel: every instruction but the settings operations and `FLASH_ALL` leaves every byte of `MIRROR` and `CACHED` alone (R21, R22), and every instruction but `SELECT_CHANNEL`, `EXIT_SESSION` and `FLASH_ALL` leaves `CHAN_VALID` and `CHAN` alone, raw transactions with the same command bytes included (R24, R341). -/
def Obligations.CacheAndChannelFrame : Prop :=
  ∀ (i : Instr) (s t : State), s.env.abandon = [] → exec i s = .next t →
    (i ∉ cacheInstrs → SameCache s t) ∧ (i ∉ channelInstrs → SameChannel s t)

/-- FRAME of a populated mirror: `CACHED` is never cleared (R22), and every instruction but `FETCH` leaves the bytes 174 to 255 as the last fetch left them (43_settings_cache.md R236). -/
def Obligations.ReservedBytesPreserved : Prop :=
  ∀ (i : Instr) (s t : State), s.cached = true → s.env.abandon = [] → exec i s = .next t →
    t.cached = true ∧ (i ≠ .fetch → ∀ a, 174 ≤ a → readByte t.mem a = readByte s.mem a)

/-! ## The Checksum Engine -/

/-- CRC8, CRC16X and CRC16R always end `OK` with the checksum of `OUTBUF[0 .. A_LEN-1]` in `R_CRC` and change nothing but the result registers and the handshake bits (40_checksum.md R142, R145, R147). Bytes of `OUTBUF` the host has not written read 0x00, the model's choice (log entry 10). -/
def Obligations.ChecksumOperations : Prop :=
  ∀ s : State,
    exec .crc8 s = .next (s.endOp { crc := (crc8Of s.outBytes s.opnd.poly).setWidth 16 } []) ∧
    exec .crc16x s = .next (s.endOp { crc := crc16xOf s.outBytes s.opnd.seed } []) ∧
    exec .crc16r s = .next (s.endOp { crc := crc16rOf s.outBytes } []) ∧
    s.outBytes.length = s.opnd.len.toNat

/-- `Crc8` (R141 to R143): 0 for no data, and one byte more is an exclusive-or of the byte into the register and eight rounds, each a left shift under a test of bit 7 (this direction is the spec's own decision, 92_eei_decisions.md D7); the values the spec gives; and its laws: chaining, the self-check, linearity, leading zero bytes, and the zero polynomial. -/
def Obligations.Crc8Laws : Prop :=
  (∀ (a b : List Byte) (x c poly : Byte) (n : Nat),
    crc8Of a poly = crc8From 0 a poly ∧ crc8From c [] poly = c ∧ crc8Of [] poly = 0 ∧
    crc8From c (a ++ [x]) poly =
      Nat.repeat (fun c : Byte => if c.getLsbD 7 then (c <<< 1) ^^^ poly else c <<< 1) 8 (crc8From c a poly ^^^ x) ∧
    crc8Of [0x01] poly = poly ∧
    crc8Of (a ++ b) poly = crc8From (crc8Of a poly) b poly ∧
    crc8Of (a ++ [crc8Of a poly]) poly = 0 ∧
    (a.length = b.length → crc8Of (xorBytes a b) poly = crc8Of a poly ^^^ crc8Of b poly) ∧
    crc8Of (List.replicate n 0 ++ a) poly = crc8Of a poly ∧
    crc8Of a 0 = 0) ∧
  crc8Of [0x80] 0xD5 = 0xEF ∧ crc8Of [0x01, 0x02] 0xD5 = 0x74 ∧ crc8Of [0x02, 0x01] 0xD5 = 0xC3 ∧
  crc8Of [0x31, 0x32, 0x33, 0x34, 0x35, 0x36, 0x37, 0x38, 0x39] 0xD5 = 0xBC

/-- With an odd polynomial `Crc8` tells any two inputs apart that differ in one bit (R143 (e)). -/
def Obligations.Crc8SeesOneBit : Prop :=
  ∀ (data : List Byte) (poly : Byte) (k b : Nat), poly.getLsbD 0 = true → k < data.length → b < 8 →
    crc8Of (flipBit data k b) poly ≠ crc8Of data poly

/-- The two 16-bit checksums (R144 to R148): no data gives the start value, and one byte more is an exclusive-or of the byte into the high half (`Crc16X`) or the low half (`Crc16R`) and eight rounds, a left shift under a test of bit 15 with 0x1021, or a right shift under a test of bit 0 with 0xA001 (the bitwise loops are the spec's own decision, 92_eei_decisions.md D8); the values the spec gives; and their laws: chaining, the self-checks, linearity, and leading zero bytes. -/
def Obligations.Crc16Laws : Prop :=
  (∀ (a b : List Byte) (x : Byte) (seed c : Half) (n : Nat),
    crc16xOf [] seed = seed ∧
    crc16xOf (a ++ [x]) seed =
      Nat.repeat (fun c : Half => if c.getLsbD 15 then (c <<< 1) ^^^ 0x1021 else c <<< 1) 8
        (crc16xOf a seed ^^^ (x.setWidth 16 <<< 8)) ∧
    crc16rOf a = crc16rFrom 0 a ∧ crc16rFrom c [] = c ∧
    crc16rFrom c (a ++ [x]) =
      Nat.repeat (fun c : Half => if c.getLsbD 0 then (c >>> 1) ^^^ 0xA001 else c >>> 1) 8
        (crc16rFrom c a ^^^ x.setWidth 16) ∧
    crc16xOf (a ++ b) seed = crc16xOf b (crc16xOf a seed) ∧
    crc16rFrom c (a ++ b) = crc16rFrom (crc16rFrom c a) b ∧
    crc16xOf (a ++ be16 (crc16xOf a 0)) 0 = 0 ∧
    crc16rOf (a ++ le16 (crc16rOf a)) = 0 ∧
    crc16xOf (List.replicate n 0 ++ a) 0 = crc16xOf a 0 ∧ crc16rOf (List.replicate n 0 ++ a) = crc16rOf a ∧
    (a.length = b.length →
      crc16xOf (xorBytes a b) 0 = crc16xOf a 0 ^^^ crc16xOf b 0 ∧ crc16rOf (xorBytes a b) = crc16rOf a ^^^ crc16rOf b)) ∧
  crc16xOf [0x01] 0 = 0x1021 ∧ crc16xOf [0x80] 0 = 0x9188 ∧ crc16rOf [0x01] = 0xC0C1 ∧ crc16rOf [0x80] = 0xA001 ∧
  crc16xOf [0x01, 0x02] 0 = 0x1373 ∧ crc16xOf [0x02, 0x01] 0 = 0x7643 ∧
  crc16rOf [0x01, 0x02] = 0x5180 ∧ crc16rOf [0x02, 0x01] = 0xA0C0 ∧
  crc16xOf [0x31, 0x32, 0x33, 0x34, 0x35, 0x36, 0x37, 0x38, 0x39] 0 = 0x31C3 ∧
  crc16rOf [0x31, 0x32, 0x33, 0x34, 0x35, 0x36, 0x37, 0x38, 0x39] = 0xBB3D

/-- Both 16-bit checksums tell any two inputs apart that differ in one bit (R148 (d)). -/
def Obligations.Crc16SeesOneBit : Prop :=
  ∀ (data : List Byte) (seed : Half) (k b : Nat), k < data.length → b < 8 →
    crc16xOf (flipBit data k b) seed ≠ crc16xOf data seed ∧ crc16rOf (flipBit data k b) ≠ crc16rOf data

/-! ## The wire -/

/-- The frames the core sends, byte by byte (30_encoding.md R90, R91, R100): preamble, header, payload, and the checksum of exactly the bytes R91 and R100 name. -/
def Obligations.RequestLayouts : Prop :=
  ∀ (p : Params) (cmd : Half) (c : Byte) (addr : Half) (out : List Byte),
    (mspRequest p cmd out =
      [p.mspP0, p.mspP1, p.mspDirReq, 0x00, lowByte cmd, highByte cmd,
        BitVec.ofNat 8 out.length, BitVec.ofNat 8 (out.length / 256)] ++ out ++
        [crc8Of (((mspRequest p cmd out).drop 3).take (5 + out.length)) p.mspPoly]) ∧
    (e4wRequest p c addr out =
      [p.escLocal, c, highByte addr, lowByte addr, BitVec.ofNat 8 (out.length % 256)] ++ out ++
        be16 (crc16xOf ((e4wRequest p c addr out).take (5 + out.length)) 0))

/-- The length byte (30_encoding.md R102), and the refusal of a payload that has no encoding. -/
def Obligations.LengthByte : Prop :=
  (∀ n, 1 ≤ n → n ≤ 256 → (lenEnc n).toNat = n % 256 ∧ lenDec (lenEnc n) = n) ∧
  (∀ b : Byte, lenDec b = (if b = 0 then 256 else b.toNat) ∧ 1 ≤ lenDec b ∧ lenDec b ≤ 256) ∧
  (∀ s : State, s.linkUp = true → s.opnd.len.toNat = 0 →
    exec .e4wSend s = .next (s.endOp { status := 0x43 } [])) ∧
  (∀ s : State, s.linkUp = true → 256 < s.opnd.len.toNat →
    exec .e4wSend s = .next (s.endOp { status := 0x42 } []))

/-! ## The MSP Transport -/

/-- MSP_TRANSACT against a well-formed reply (41_msp_transport.md R160, R166, R167, R169): whatever the unexamined bytes are, the operation ends `OK` with the first `A_CAP` bytes of the payload, having written one request and made one read. The whole next state, for the row MSP_FRAME too, which is that transaction by the model's reading (log entry 18). -/
def Obligations.MspRoundTrip : Prop :=
  ∀ (i : Instr) (s : State) (n : Nat) (ns : List Nat) (b1 b2 f : Byte) (c : Half) (q : List Byte)
    (xs : List (List Byte)), i = .mspTransact ∨ i = .mspFrame →
    s.linkUp = true → s.opnd.len.toNat ≤ 65535 → 9 + s.opnd.len.toNat ≤ s.cfg.params.mspMaxFrame →
    s.env.abandon = [] → s.env.line = [] → s.env.accepts = n :: ns → 9 + s.opnd.len.toNat ≤ n →
    q.length ≤ 65535 → 9 + q.length ≤ s.cfg.params.mspMaxFrame →
    s.env.arrivals = mspReply s.cfg.params b1 b2 f c q :: xs →
    exec i s = .next
      ({ s with
          env := { s.env with accepts := ns, arrivals := xs }
          events := s.events ++
            [StreamEvent.write 0 (mspRequest s.cfg.params s.opnd.cmd s.outBytes) (9 + s.opnd.len.toNat),
             .read 0 s.cfg.params.mspMaxFrame s.timeout (mspReply s.cfg.params b1 b2 f c q)] }.endOp
        { len := BitVec.ofNat 32 (min q.length s.opnd.cap.toNat) } (q.take s.opnd.cap.toNat))

/-- The verdict on any reply (R165, R291, R298): the first byte, then the length, then the checksum; the first test that fails decides the status, and an error hands back nothing. The one read takes what was on the line before what has arrived since, up to its bound, and leaves the rest there (R34, R343). -/
def Obligations.MspVerdict : Prop :=
  ∀ (s : State) (n : Nat) (ns : List Nat) (x rx : List Byte) (xs : List (List Byte)),
    s.linkUp = true → s.opnd.len.toNat ≤ 65535 → 9 + s.opnd.len.toNat ≤ s.cfg.params.mspMaxFrame →
    s.env.abandon = [] → s.env.accepts = n :: ns → 9 + s.opnd.len.toNat ≤ n →
    s.env.arrivals = x :: xs → rx = (s.env.line ++ x).take s.cfg.params.mspMaxFrame →
    ∃ t, exec .mspTransact s = .next t ∧
      t.res.status =
        (if rx.head? ≠ some s.cfg.params.mspP0 then 0x10
         else if rx.length < 9 ∨ rx.length ≠ 9 + ((rx.getD 6 0).toNat + 256 * (rx.getD 7 0).toNat) then 0x11
         else if crc8Of ((rx.drop 3).take (rx.length - 4)) s.cfg.params.mspPoly ≠ rx.getD (rx.length - 1) 0 then 0x12
         else 0x00) ∧
      (t.res.status ≠ 0 → t.res.len = 0 ∧ t.inbuf = []) ∧
      t.events = s.events ++
        [StreamEvent.write 0 (mspRequest s.cfg.params s.opnd.cmd s.outBytes) (9 + s.opnd.len.toNat),
         .read 0 s.cfg.params.mspMaxFrame s.timeout rx] ∧
      t.env = { s.env with accepts := ns, line := (s.env.line ++ x).drop s.cfg.params.mspMaxFrame, arrivals := xs }

/-- What stops MSP_TRANSACT before its read (R161, R163, R168): a payload too long for the frame is refused with nothing written; a short write ends the operation after that one call. -/
def Obligations.MspRefusals : Prop :=
  (∀ s : State, s.linkUp = true →
    (65535 < s.opnd.len.toNat ∨ s.cfg.params.mspMaxFrame < 9 + s.opnd.len.toNat) →
    exec .mspTransact s = .next (s.endOp { status := 0x42 } [])) ∧
  (∀ (s : State) (n : Nat) (ns : List Nat), s.linkUp = true → s.opnd.len.toNat ≤ 65535 →
    9 + s.opnd.len.toNat ≤ s.cfg.params.mspMaxFrame → s.env.abandon = [] → s.env.accepts = n :: ns →
    n < 9 + s.opnd.len.toNat →
    exec .mspTransact s = .next
      ({ s with
          env := { s.env with accepts := ns }
          events := s.events ++ [StreamEvent.write 0 (mspRequest s.cfg.params s.opnd.cmd s.outBytes) n] }.endOp
        { status := 0x14 } []))

/-- One changed bit in the header or payload of a good reply is never accepted where the polynomial is odd (R169): `CrcMismatch`, or `LengthMismatch` where the bit is in the size field. -/
def Obligations.MspSeesOneBit : Prop :=
  ∀ (s : State) (n : Nat) (ns : List Nat) (b1 b2 f : Byte) (c : Half) (q : List Byte) (xs : List (List Byte))
    (k b : Nat), s.cfg.params.mspPoly.getLsbD 0 = true → 3 ≤ k → k < 8 + q.length → b < 8 →
    s.linkUp = true → s.opnd.len.toNat ≤ 65535 → 9 + s.opnd.len.toNat ≤ s.cfg.params.mspMaxFrame →
    s.env.abandon = [] → s.env.line = [] → s.env.accepts = n :: ns → 9 + s.opnd.len.toNat ≤ n →
    q.length ≤ 65535 → 9 + q.length ≤ s.cfg.params.mspMaxFrame →
    s.env.arrivals = flipBit (mspReply s.cfg.params b1 b2 f c q) k b :: xs →
    ∃ t, exec .mspTransact s = .next t ∧ t.res.status = (if k = 6 ∨ k = 7 then 0x11 else 0x12) ∧ t.inbuf = []

/-! ## The ESC4Way Transport -/

/-- E4W_SEND with a peer that acknowledges (42_esc4way_transport.md R180, R186, R189 (b)): whatever the unexamined bytes of the reply are, its payload is handed back, after one write and two reads. The whole next state: the channel and the cache are untouched whatever the command byte (R341). -/
def Obligations.E4wSendAcknowledged : Prop :=
  ∀ (s : State) (r : Reply) (rest : List Reply),
    s.linkUp = true → 1 ≤ s.opnd.len.toNat → s.opnd.len.toNat ≤ 256 → s.env.answers (r :: rest) →
    exec .e4wSend s = .next
      ((s.begin.afterTransaction (lowByte s.opnd.cmd) s.opnd.addr s.outBytes r).endOp
        { len := BitVec.ofNat 32 r.payload.length } r.payload)

/-- The verdict on any answers of the stream (R180, R183, R184, R185, R187, R298): a short write, a short header, a short rest, the checksum, and only then the acknowledgement byte, which goes to `R_ACK`. An error hands back no payload, and `R_ACK` reads 0 where no acknowledgement was taken (log entry 27). `h` is what the first read finds and `b` what the second does: bytes on the line that no read took come first, and what a read does not ask for stays (R34, R343). The events are the request, of which the stream took what it took, and the reads made before the error (R182, R188). -/
def Obligations.E4wVerdict : Prop :=
  ∀ (s : State) (n : Nat) (ns : List Nat) (x y h l b : List Byte) (xs : List (List Byte)),
    s.linkUp = true → 1 ≤ s.opnd.len.toNat → s.opnd.len.toNat ≤ 256 →
    s.env.abandon = [] → s.env.accepts = n :: ns → s.env.arrivals = x :: y :: xs →
    h = (s.env.line ++ x).take 5 → l = (s.env.line ++ x).drop 5 ++ y → b = l.take (lenDec (h.getD 4 0) + 3) →
    ∃ t, exec .e4wSend s = .next t ∧
      (t.res.status, t.res.ack) =
        (if n < 7 + s.opnd.len.toNat then (0x14, 0)
         else if h.length < 5 then (0x13, 0)
         else if b.length < lenDec (h.getD 4 0) + 3 then (0x13, 0)
         else if crc16xOf (h ++ b.take (lenDec (h.getD 4 0) + 1)) 0 ≠
             halfOf (b.getD (lenDec (h.getD 4 0) + 1) 0) (b.getD (lenDec (h.getD 4 0) + 2) 0) then (0x12, 0)
         else if b.getD (lenDec (h.getD 4 0)) 0 ≠ 0 then (0x20, b.getD (lenDec (h.getD 4 0)) 0)
         else (0x00, 0)) ∧
      (if t.res.status = 0 then t.inbuf = b.take (lenDec (h.getD 4 0)) else t.inbuf = []) ∧
      t.res.len.toNat = t.inbuf.length ∧
      t.events = s.events ++
        StreamEvent.write 0 (e4wRequest s.cfg.params (lowByte s.opnd.cmd) s.opnd.addr s.outBytes)
            (min n (7 + s.opnd.len.toNat)) ::
          (if n < 7 + s.opnd.len.toNat then []
           else if h.length < 5 then [.read 0 5 s.timeout h]
           else [.read 0 5 s.timeout h, .read 0 (lenDec (h.getD 4 0) + 3) s.timeout b]) ∧
      t.env =
        (if n < 7 + s.opnd.len.toNat then { s.env with accepts := ns }
         else if h.length < 5 then { s.env with accepts := ns, line := [], arrivals := y :: xs }
         else { s.env with accepts := ns, line := l.drop (lenDec (h.getD 4 0) + 3), arrivals := xs })

/-- One transaction issues at most three stream events: the request, the header, the rest, in that order, whatever comes back (R188, R189 (d)); a read is made only after the stream took the request whole, and the second only after a whole header. The bytes written are the request of the row's command, address and payload. `E4W_SEND`, `SELECT_CHANNEL` and `EXIT_SESSION` are operations of the spec; that the rows `E4W_DEVICE_INIT`, `E4W_DEVICE_READ`, `E4W_DEVICE_WRITE` and `E4W_EXIT` are one transaction by themselves (log entry 19), and `E4W_REQUEST_FRAME` the first half of one (log entry 18), is the model's reading. -/
def Obligations.E4wAtMostThreeEvents : Prop :=
  ∀ (i : Instr) (cmd : Byte) (addr : Half) (out tx : List Byte) (s t : State),
    (i, cmd, addr, out) ∈
      [(Instr.e4wSend, lowByte s.opnd.cmd, s.opnd.addr, s.outBytes),
       (.selectChannel, s.cfg.params.cmdDeviceInit, 0x0000, [s.opnd.chan]),
       (.exitSession, s.cfg.params.cmdExit, 0x0000, [0x00]),
       (.e4wDeviceInit, s.cfg.params.cmdDeviceInit, 0x0000, [s.opnd.chan]),
       (.e4wDeviceRead, s.cfg.params.cmdDeviceRead, s.opnd.addr, [lenEnc s.opnd.len.toNat]),
       (.e4wDeviceWrite, s.cfg.params.cmdDeviceWrite, s.opnd.addr, s.outBytes),
       (.e4wExit, s.cfg.params.cmdExit, 0x0000, [0x00]),
       (.e4wRequestFrame, lowByte s.opnd.cmd, s.opnd.addr, s.outBytes)] →
    tx = e4wRequest s.cfg.params cmd addr out → exec i s = .next t →
    t.events = s.events ∨
    (∃ n, n ≤ tx.length ∧ t.events = s.events ++ [StreamEvent.write 0 tx n]) ∨
    (∃ h, i ≠ .e4wRequestFrame ∧ t.events = s.events ++ [StreamEvent.write 0 tx tx.length, .read 0 5 s.timeout h]) ∨
    (∃ h b, i ≠ .e4wRequestFrame ∧ h.length = 5 ∧
      t.events = s.events ++
        [StreamEvent.write 0 tx tx.length, .read 0 5 s.timeout h,
         .read 0 (lenDec (h.getD 4 0) + 3) s.timeout b])

/-- One changed bit in the payload or the acknowledgement of a good reply is never accepted (R189 (c)): `CrcMismatch`. -/
def Obligations.E4wSeesOneBit : Prop :=
  ∀ (s : State) (r : Reply) (a : Byte) (n : Nat) (ns : List Nat) (xs : List (List Byte)) (k b : Nat),
    s.linkUp = true → 1 ≤ s.opnd.len.toNat → s.opnd.len.toNat ≤ 256 → r.wf →
    s.env.abandon = [] → s.env.line = [] → s.env.accepts = n :: ns → 263 ≤ n →
    k ≤ r.payload.length → b < 8 → s.env.arrivals = r.head :: flipBit (r.tail a) k b :: xs →
    ∃ t, exec .e4wSend s = .next t ∧ t.res.status = 0x12 ∧ t.res.ack = 0 ∧ t.inbuf = []

/-- The rows of format E4W_REQUEST (R106, R191, R192; one bare transaction is the model's reading, log entry 19): command, address and payload are those of the table. The whole next state, the refusal of a device-read reply of another length, and that of a length that has no length byte. -/
def Obligations.RequestRows : Prop :=
  (∀ (i : Instr) (s : State), i = .e4wDeviceRead ∨ i = .e4wDeviceWrite → s.linkUp = true →
    (s.opnd.len.toNat = 0 → exec i s = .next (s.endOp { status := 0x43 } [])) ∧
    (256 < s.opnd.len.toNat → exec i s = .next (s.endOp { status := 0x42 } []))) ∧
  ∀ (s : State) (r : Reply) (rest : List Reply), s.linkUp = true → s.env.answers (r :: rest) →
    exec .e4wDeviceInit s = .next
      ((s.begin.afterTransaction s.cfg.params.cmdDeviceInit 0x0000 [s.opnd.chan] r).endOp {} []) ∧
    exec .e4wExit s = .next ((s.begin.afterTransaction s.cfg.params.cmdExit 0x0000 [0x00] r).endOp {} []) ∧
    (1 ≤ s.opnd.len.toNat → s.opnd.len.toNat ≤ 256 →
      exec .e4wDeviceWrite s = .next
        ((s.begin.afterTransaction s.cfg.params.cmdDeviceWrite s.opnd.addr s.outBytes r).endOp {} []) ∧
      exec .e4wDeviceRead s = .next
        ((s.begin.afterTransaction s.cfg.params.cmdDeviceRead s.opnd.addr [lenEnc s.opnd.len.toNat] r).endOp
          (if r.payload.length = s.opnd.len.toNat then { len := s.opnd.len } else { status := 0x11 })
          (if r.payload.length = s.opnd.len.toNat then r.payload else [])))

/-- The rows of format E4W_ACK (30_encoding.md R104, R185; log entry 16): the byte goes to `R_ACK`; 0x00 is success, every other byte `CommandError`. -/
def Obligations.AckRows : Prop :=
  ∀ (i : Instr) (b : Byte) (s : State),
    (i, b) ∈ [(Instr.ackOk, (0x00 : Byte)), (.ackInvalidCmd, 0x02), (.ackInvalidCrc, 0x03), (.ackVerifyError, 0x04),
        (.ackInvalidChannel, 0x08), (.ackInvalidParam, 0x09), (.ackGeneralError, 0x0F), (.ackUnknown b, b)] →
    exec i s = .next (s.endOp { status := if b = 0x00 then 0x00 else 0x20, ack := b } [])

/-- The rows E4W_REQUEST_FRAME, E4W_REPLY_FRAME and E4W_LENGTH_BYTE (R100, R101, R102; what a frame by itself does is the model's reading, log entries 18 and 22; MSP_FRAME stands in `MspRoundTrip`): the request frame is sent in one write, a short count being a `ShortWrite`; a reply frame is read in two reads and checked, and its payload handed back. The whole next state. A length of 0 or above 256 has no length byte and is refused, with nothing sent. -/
def Obligations.FrameRows : Prop :=
  (∀ (s : State) (n : Nat) (ns : List Nat), s.linkUp = true → 1 ≤ s.opnd.len.toNat → s.opnd.len.toNat ≤ 256 →
    s.env.abandon = [] → s.env.accepts = n :: ns →
    exec .e4wRequestFrame s = .next
      ({ s with
          env := { s.env with accepts := ns }
          events := s.events ++
            [StreamEvent.write 0 (e4wRequest s.cfg.params (lowByte s.opnd.cmd) s.opnd.addr s.outBytes)
              (min n (7 + s.opnd.len.toNat))] }.endOp
        { status := if n < 7 + s.opnd.len.toNat then 0x14 else 0x00 } [])) ∧
  (∀ s : State, 1 ≤ s.opnd.len.toNat → s.opnd.len.toNat ≤ 256 →
    exec .e4wLengthByte s = .next (s.endOp { len := 1 } [lenEnc s.opnd.len.toNat])) ∧
  (∀ (i : Instr) (s : State), i = .e4wLengthByte ∨ (i = .e4wRequestFrame ∧ s.linkUp = true) →
    (s.opnd.len.toNat = 0 → exec i s = .next (s.endOp { status := 0x43 } [])) ∧
    (256 < s.opnd.len.toNat → exec i s = .next (s.endOp { status := 0x42 } []))) ∧
  (∀ (s : State) (r : Reply) (a : Byte) (xs : List (List Byte)), s.linkUp = true → r.wf → s.env.abandon = [] →
    s.env.line = [] → s.env.arrivals = r.head :: r.tail a :: xs →
    exec .e4wReplyFrame s = .next
      ({ s with
          env := { s.env with arrivals := xs }
          events := s.events ++
            [StreamEvent.read 0 5 s.timeout r.head, .read 0 (r.payload.length + 3) s.timeout (r.tail a)] }.endOp
        (if a = 0x00 then { len := BitVec.ofNat 32 r.payload.length } else { status := 0x20, ack := a })
        (if a = 0x00 then r.payload else [])))

/-- The chunking rule (20_memory.md R68): a transfer is split into chunks of 1 to 256 bytes, only the last below 256, whose bytes joined are the whole and whose addresses fit 16 bits; 600 bytes at 0 make 256, 256 and 88 at 0, 256 and 512. -/
def Obligations.ChunkArithmetic : Prop :=
  (∀ (addr : Nat) (buf : List Byte), addr + buf.length ≤ 65536 →
    (List.range (chunkCount buf.length)).flatMap (chunkBytes buf) = buf ∧
    ∀ i, i < chunkCount buf.length →
      1 ≤ chunkLen buf.length i ∧ chunkLen buf.length i ≤ 256 ∧
      (chunkLen buf.length i < 256 → i + 1 = chunkCount buf.length) ∧
      (chunkBytes buf i).length = chunkLen buf.length i ∧ (chunkAddr addr i).toNat = addr + 256 * i) ∧
  chunkCount 0 = 0 ∧
  (List.range (chunkCount 600)).map (fun i => ((chunkAddr 0 i).toNat, chunkLen 600 i)) = [(0, 256), (256, 256), (512, 88)]

/-- READ_FLASH with a peer that acknowledges every chunk with as many bytes as asked for (R190, R68): `INBUF` holds the chunks joined, and there is one device-read a chunk, in rising order. The mirror and the channel are untouched, also where the range covers the settings region. -/
def Obligations.ReadFlashCompletes : Prop :=
  ∀ (s : State) (rs rest : List Reply),
    s.linkUp = true → s.chanValid = true → s.opnd.addr.toNat + s.opnd.len.toNat ≤ 65536 →
    rs.length = chunkCount s.opnd.len.toNat →
    (∀ i r, rs[i]? = some r → r.payload.length = chunkLen s.opnd.len.toNat i) → s.env.answers (rs ++ rest) →
    ∃ t, exec .readFlash s = .next t ∧ Ended t ∧ t.res = { len := s.opnd.len, xfer := s.opnd.len } ∧
      t.inbuf = rs.flatMap Reply.payload ∧ t.inbuf.length = s.opnd.len.toNat ∧
      t.events = s.events ++ readEvents 0 s.cfg.params s.timeout s.opnd.addr.toNat s.opnd.len.toNat rs ∧
      t.env = s.env.afterAnswers rs.length ∧ SameHost s t ∧ SameCache s t ∧ SameChannel s t

/-- WRITE_FLASH with a peer that acknowledges every chunk (R194, R68): the bytes of `OUTBUF` go out in chunks, in rising order, and `R_XFER` counts them all. -/
def Obligations.WriteFlashCompletes : Prop :=
  ∀ (s : State) (rs rest : List Reply),
    s.linkUp = true → s.chanValid = true → s.opnd.addr.toNat + s.opnd.len.toNat ≤ 65536 →
    rs.length = chunkCount s.opnd.len.toNat → s.env.answers (rs ++ rest) →
    ∃ t, exec .writeFlash s = .next t ∧ Ended t ∧ t.res = { xfer := s.opnd.len } ∧ t.inbuf = [] ∧
      t.events = s.events ++ writeEvents 0 s.cfg.params s.timeout s.opnd.addr.toNat s.outBytes rs ∧
      t.env = s.env.afterAnswers rs.length ∧ SameHost s t ∧ SameCache s t ∧ SameChannel s t

/-- Admission of a transfer (R69, R204, R296): a range past 65536 is refused before anything is sent, after the two readiness tests; a length of 0 issues no transaction and ends `OK` with `R_XFER = 0`. -/
def Obligations.TransferAdmission : Prop :=
  ∀ s : State, s.linkUp = true →
    (∀ i, i = .readFlash ∨ i = .writeFlash →
      (s.chanValid = false → exec i s = .next (s.endOp { status := 0x41 } [])) ∧
      (s.chanValid = true → 65536 < s.opnd.addr.toNat + s.opnd.len.toNat →
        exec i s = .next (s.endOp { status := 0x44 } [])) ∧
      (s.chanValid = true → s.opnd.len = 0 → exec i s = .next (s.endOp {} []))) ∧
    (65536 < s.cfg.params.fwBase.toNat + s.opnd.len.toNat →
      exec .flashAll s = .next (s.endOp { status := 0x44 } []))

/-- The progress report (R190, R194, R195, R295), whatever the peer answers: the stream events are those of the chunks that ended `OK` (`ts`) and of one that did not (`last`, at most three events); `R_XFER` is 256 times their number where the transfer failed and the whole length where it did not; what a read hands back has that length. -/
def Obligations.TransferProgress : Prop :=
  ∀ (i : Instr) (s : State), i = .readFlash ∨ i = .writeFlash → s.env.abandon = [] →
    ∃ (t : State) (ts : List (List StreamEvent)) (last : List StreamEvent), exec i s = .next t ∧
      t.events = s.events ++ ts.flatten ++ last ∧ last.length ≤ 3 ∧
      (∀ k es, ts[k]? = some es → chunkDone i (chunkLen s.opnd.len.toNat k) es) ∧
      ¬chunkDone i (chunkLen s.opnd.len.toNat ts.length) last ∧
      (t.res.status = 0 → last = [] ∧ ts.length = chunkCount s.opnd.len.toNat ∧ t.res.xfer = s.opnd.len) ∧
      (t.res.status ≠ 0 → t.res.xfer.toNat = 256 * ts.length ∧ t.res.xfer.toNat ≤ s.opnd.len.toNat) ∧
      (i = .readFlash → t.inbuf.length = t.res.xfer.toNat ∧ t.res.len = t.res.xfer)

/-- SELECT_CHANNEL and EXIT_SESSION with a peer that acknowledges (R200, R202, R106). The whole next state: the mirror and `CACHED` are untouched (R340). -/
def Obligations.SelectAndExitComplete : Prop :=
  ∀ (s : State) (r : Reply) (rest : List Reply), s.linkUp = true → s.env.answers (r :: rest) →
    exec .selectChannel s = .next
      ({ s.begin.afterTransaction s.cfg.params.cmdDeviceInit 0x0000 [s.opnd.chan] r with
          chanValid := true, chan := s.opnd.chan }.endOp {} []) ∧
    exec .exitSession s = .next
      ({ s.begin.afterTransaction s.cfg.params.cmdExit 0x0000 [0x00] r with chanValid := false }.endOp {} [])

/-- `CHAN_VALID` after a select or an exit, whatever the peer answers (R24, R200, R202, R302): a select leaves it set exactly when it ended `OK`, and then `CHAN` is the channel asked for; an exit leaves it clear. -/
def Obligations.ChannelAfterSelectOrExit : Prop :=
  ∀ s : State, s.env.abandon = [] →
    (∃ t, exec .selectChannel s = .next t ∧ (t.chanValid = true ↔ t.res.status = 0) ∧
      t.chan = (if t.res.status = 0 then s.opnd.chan else s.chan)) ∧
    (∃ t, exec .exitSession s = .next t ∧ t.chanValid = false ∧ t.chan = s.chan)

/-! ## The Settings Cache -/

/-- The codec RAW (43_settings_cache.md R225), its examples among it; encoding what was decoded gives the bytes back (R227's law holds of it too). -/
def Obligations.RawCodec : Prop :=
  (∀ raw, decodeValue .raw raw = .int (rawInt raw)) ∧
  (∀ (pad : Byte) (w : Nat) (v : Int),
    (0 ≤ v → v < 256 ^ w → ∃ bs, encodeValue pad w .raw (.int v) = .ok bs ∧ bs.length = w ∧ (rawInt bs : Int) = v) ∧
    (¬(0 ≤ v ∧ v < 256 ^ w) → encodeValue pad w .raw (.int v) = .error .valueUnrepresentable) ∧
    encodeValue pad w .raw .disabled = .error .badValueKind ∧
    ∀ bs, encodeValue pad w .raw (.bytes bs) = .error .badValueKind) ∧
  (∀ (pad : Byte) (raw : List Byte), encodeValue pad raw.length .raw (decodeValue .raw raw) = .ok raw) ∧
  (∀ pad, encodeValue pad 1 .raw (.int 1) = .ok [0x01] ∧ encodeValue pad 2 .raw (.int 0x1234) = .ok [0x34, 0x12] ∧
    encodeValue pad 1 .raw (.int 256) = .error .valueUnrepresentable ∧
    encodeValue pad 1 .raw (.int (-1)) = .error .valueUnrepresentable)

/-- The codecs BOUNDED and SCALED (R226, R227, R234): the declared bounds are compared with nothing; an integer the bytes cannot hold is `ValueUnrepresentable`, and a kind the codec does not take `BadValueKind`; a sentinel reads back as `DISABLED` and every other raw value as the integer it is; a scaled value comes back exactly when it is a raw value's image, and is else rounded down to one; encoding what was decoded gives the bytes back. -/
def Obligations.BoundedAndScaledCodecs : Prop :=
  (∀ (pad : Byte) (w : Nat) (lo hi lo' hi' : Int) (d : Option Nat) (v : Value) (raw : List Byte),
    encodeValue pad w (.bounded lo hi d) v = encodeValue pad w (.bounded lo' hi' d) v ∧
    decodeValue (.bounded lo hi d) raw = decodeValue (.bounded lo' hi' d) raw) ∧
  (∀ (pad : Byte) (w : Nat) (lo hi v : Int) (d : Option Nat),
    (0 ≤ v → v < 256 ^ w →
      ∃ bs, encodeValue pad w (.bounded lo hi d) (.int v) = .ok bs ∧ bs.length = w ∧ (rawInt bs : Int) = v) ∧
    (¬(0 ≤ v ∧ v < 256 ^ w) → encodeValue pad w (.bounded lo hi d) (.int v) = .error .valueUnrepresentable) ∧
    encodeValue pad w (.bounded lo hi none) .disabled = .error .badValueKind ∧
    ∀ bs, encodeValue pad w (.bounded lo hi d) (.bytes bs) = .error .badValueKind) ∧
  (∀ (raw : List Byte) (lo hi : Int) (d : Option Nat),
    decodeValue (.bounded lo hi d) raw = if d = some (rawInt raw) then .disabled else .int (rawInt raw)) ∧
  (∀ (pad : Byte) (w num den : Nat) (offn : Int) (raw : List Byte),
    encodeValue pad w (.scaled num den offn) .disabled = .error .badValueKind ∧
    (∀ bs, encodeValue pad w (.scaled num den offn) (.bytes bs) = .error .badValueKind) ∧
    decodeValue (.scaled num den offn) raw = .int ((rawInt raw : Int) * num + offn)) ∧
  (∀ (pad : Byte) (w d : Nat) (lo hi : Int), d < 256 ^ w →
    ∃ bs, encodeValue pad w (.bounded lo hi (some d)) .disabled = .ok bs ∧
      encodeValue pad w (.bounded lo hi (some d)) (.int d) = .ok bs ∧ bs.length = w ∧
      decodeValue (.bounded lo hi (some d)) bs = .disabled) ∧
  (∀ (pad : Byte) (w num den : Nat) (offn v : Int), 1 ≤ num →
    (v < offn ∨ offn + (256 ^ w : Nat) * num ≤ v →
      encodeValue pad w (.scaled num den offn) (.int v) = .error .valueUnrepresentable) ∧
    (offn ≤ v → v < offn + (256 ^ w : Nat) * num →
      ∃ bs u, encodeValue pad w (.scaled num den offn) (.int v) = .ok bs ∧ bs.length = w ∧
        decodeValue (.scaled num den offn) bs = .int u ∧ u ≤ v ∧ v < u + num ∧
        (u = v ↔ (num : Int) ∣ v - offn))) ∧
  (∀ (pad : Byte) (num den : Nat) (lo hi offn : Int) (d : Option Nat) (raw : List Byte), 1 ≤ num →
    encodeValue pad raw.length (.scaled num den offn) (decodeValue (.scaled num den offn) raw) = .ok raw ∧
    encodeValue pad raw.length (.bounded lo hi d) (decodeValue (.bounded lo hi d) raw) = .ok raw)

/-- The codec STRING (R229). -/
def Obligations.StringCodec : Prop :=
  ∀ (pad : Byte) (w : Nat),
    (∀ raw, decodeValue .string raw = .bytes raw) ∧
    (∀ bs, w < bs.length → encodeValue pad w .string (.bytes bs) = .error .valueUnrepresentable) ∧
    (∀ bs, bs.length ≤ w → ∃ raw, encodeValue pad w .string (.bytes bs) = .ok raw ∧ raw.length = w ∧
      (∀ i, i < bs.length → raw.getD i 0 = bs.getD i 0) ∧ (∀ i, bs.length ≤ i → i < w → raw.getD i 0 = pad)) ∧
    (∀ v, encodeValue pad w .string (.int v) = .error .badValueKind) ∧
    encodeValue pad w .string .disabled = .error .badValueKind

/-- FETCH with a peer that acknowledges with 256 bytes (R230): every byte of the mirror is the peer's, `CACHED` is set, one device-read of 256 bytes was made. -/
def Obligations.FetchCompletes : Prop :=
  ∀ (s : State) (r : Reply) (rest : List Reply), s.linkUp = true → s.chanValid = true → r.payload.length = 256 →
    s.env.answers (r :: rest) →
    ∃ t, exec .fetch s = .next t ∧ Ended t ∧ t.res = {} ∧ t.inbuf = [] ∧ t.cached = true ∧
      (∀ a, readByte t.mem a = fetchedByte (readByte s.mem) r.payload a) ∧
      t.events = s.events ++ fetchEvents 0 s.cfg.params s.timeout r ∧ t.env = s.env.afterAnswers 1 ∧
      SameHost s t ∧ SameChannel s t

/-- A fetch that ends in an error leaves `MIRROR` and `CACHED` exactly as they were and has sent nothing but its device-read (R230, R302): in FETCH; in GET_FIELD and SET_FIELD on an empty mirror and the row SETTINGS_BLOCK, which end as the FETCH does, the whole next state, with no device-write (R231, R232; log entry 20); and in step 2 of FLASH_ALL (R263). -/
def Obligations.FetchErrorKeepsMirror : Prop :=
  ∀ s : State, s.env.abandon = [] →
    (∃ (u : State) (new : List StreamEvent), exec .fetch s = .next u ∧ u.events = s.events ++ new ∧
      (∀ k bs n, StreamEvent.write k bs n ∈ new →
        bs = e4wRequest s.cfg.params s.cfg.params.cmdDeviceRead s.cfg.params.settingsBase [0x00]) ∧
      (u.res.status ≠ 0 → u.mem = s.mem ∧ u.cached = s.cached ∧
        (s.cached = false →
          exec .settingsBlock s = .next u ∧
          ∀ e, s.cfg.params.find s.opnd.field = some e →
            exec .getField s = .next u ∧
            ∀ v raw, s.portValue = .ok v → encodeValue s.cfg.params.strPad e.width e.codec v = .ok raw →
              exec .setField s = .next u))) ∧
    (∀ i, i = .getField ∨ i = .settingsBlock →
      ∃ t, exec i s = .next t ∧ (t.res.status ≠ 0 → t.mem = s.mem ∧ t.cached = s.cached)) ∧
    (s.fw.length = s.opnd.len.toNat →
      ∃ (t : State) (new : List StreamEvent), exec .flashAll s = .next t ∧ t.events = s.events ++ new ∧
        (t.res.step = 2 → t.cached = false → t.mem = s.mem ∧ s.cached = false ∧
          ∀ bs n, StreamEvent.write 2 bs n ∈ new →
            bs = e4wRequest s.cfg.params s.cfg.params.cmdDeviceRead s.cfg.params.settingsBase [0x00]))

/-- GET_FIELD (R231, R22): with a populated mirror it answers from the mirror alone, without a stream event and whatever `LINK_UP` and `CHAN_VALID` are; with an empty one it fetches first. An index without an entry is `UnknownField` (R221). -/
def Obligations.GetFieldCompletes : Prop :=
  (∀ (s : State) (e : FieldEntry), s.cfg.params.find s.opnd.field = some e → s.cached = true →
    exec .getField s = .next
      (match decodeValue e.codec (readBytes s.mem e.offset e.width) with
        | .int x => s.endOp { vkind := 0, value := BitVec.ofInt 32 x } []
        | .disabled => s.endOp { vkind := 1 } []
        | .bytes bs => s.endOp { vkind := 2, len := BitVec.ofNat 32 e.width } bs)) ∧
  (∀ (s : State) (e : FieldEntry) (r : Reply) (rest : List Reply), s.cfg.params.find s.opnd.field = some e →
    s.cached = false → s.linkUp = true → s.chanValid = true → r.payload.length = 256 → s.env.answers (r :: rest) →
    ∃ t, exec .getField s = .next t ∧ Ended t ∧ t.res.status = 0 ∧ t.cached = true ∧
      (∀ a, readByte t.mem a = fetchedByte (readByte s.mem) r.payload a) ∧
      t.events = s.events ++ fetchEvents 0 s.cfg.params s.timeout r ∧
      (match decodeValue e.codec ((r.payload.drop e.offset).take e.width) with
        | .int x => t.res.vkind = 0 ∧ t.res.value = BitVec.ofInt 32 x ∧ t.inbuf = []
        | .disabled => t.res.vkind = 1 ∧ t.res.value = 0 ∧ t.inbuf = []
        | .bytes bs => t.res.vkind = 2 ∧ t.res.value = 0 ∧ t.inbuf = bs)) ∧
  (∀ s : State, s.cfg.params.find s.opnd.field = none → exec .getField s = .next (s.endOp { status := 0x45 } []))

/-- SET_FIELD with a peer that acknowledges (R232, R233, R235, R237 (c)): only the bytes of the field change, in the mirror and in the page sent, which is one device-write of 256 bytes, after one device-read of 256 bytes exactly when the mirror was empty (`q`). -/
def Obligations.SetFieldCompletes : Prop :=
  ∀ (s : State) (e : FieldEntry) (v : Value) (raw : List Byte) (q : Option Reply) (r : Reply) (rest : List Reply)
    (page : Nat → Byte),
    s.cfg.params.find s.opnd.field = some e → s.portValue = .ok v →
    encodeValue s.cfg.params.strPad e.width e.codec v = .ok raw → s.linkUp = true → s.chanValid = true →
    s.cached = q.isNone → (∀ x ∈ q, x.payload.length = 256) →
    page = q.elim (readByte s.mem) (fun x => fetchedByte (readByte s.mem) x.payload) →
    s.env.answers (q.toList ++ r :: rest) →
    ∃ t, exec .setField s = .next t ∧ Ended t ∧ t.res = {} ∧ t.inbuf = [] ∧ t.cached = true ∧
      (∀ a, readByte t.mem a = editedByte page e raw a) ∧
      t.events = s.events ++ q.toList.flatMap (fetchEvents 0 s.cfg.params s.timeout) ++
        pageEvents 0 s.cfg.params s.timeout (pageBytes (editedByte page e raw)) r ∧
      t.env = s.env.afterAnswers (q.toList.length + 1) ∧ SameHost s t ∧ SameChannel s t

/-- The refusals of SET_FIELD in their order (R298, R232): an unknown field, the reserved kind, a kind or value the codec does not take, no stream, no channel. Each leaves the mirror and the stream alone: the whole next state. -/
def Obligations.SetFieldRefusals : Prop :=
  ∀ s : State,
    (s.cfg.params.find s.opnd.field = none → exec .setField s = .next (s.endOp { status := 0x45 } [])) ∧
    (∀ e, s.cfg.params.find s.opnd.field = some e →
      (s.opnd.vkind = 3 → exec .setField s = .next (s.endOp { status := 0x48 } [])) ∧
      (∀ v x, s.portValue = .ok v → encodeValue s.cfg.params.strPad e.width e.codec v = .error x →
        exec .setField s = .next (s.endOp { status := statusCode x } [])) ∧
      (∀ v raw, s.portValue = .ok v → encodeValue s.cfg.params.strPad e.width e.codec v = .ok raw →
        (s.linkUp = false → exec .setField s = .next (s.endOp { status := 0x40 } [])) ∧
        (s.linkUp = true → s.chanValid = false → exec .setField s = .next (s.endOp { status := 0x41 } []))))

/-- A field set reads back at once, without a stream event, whatever became of its write back: there is no roll back (R237 (a), R338). The mirror was populated, or was empty and the fetch passed (`q`); the page then is the mirror's, or the fetched one, with the field edited, and `CACHED` is set. The two operations one after the other, with the host changing only which one it starts. -/
def Obligations.SetThenGet : Prop :=
  ∀ (s : State) (e : FieldEntry) (v : Value) (raw : List Byte) (q : Option Reply) (page : Nat → Byte),
    s.cfg.params.find s.opnd.field = some e → s.portValue = .ok v →
    encodeValue s.cfg.params.strPad e.width e.codec v = .ok raw → s.linkUp = true → s.chanValid = true →
    s.cached = q.isNone → s.env.abandon = [] → (∀ x ∈ q, x.payload.length = 256 ∧ s.env.answers [x]) →
    page = q.elim (readByte s.mem) (fun x => fetchedByte (readByte s.mem) x.payload) →
    ∃ (t u : State) (back : List StreamEvent), exec .setField s = .next t ∧ t.cached = true ∧
      (∀ a, readByte t.mem a = editedByte page e raw a) ∧
      t.events = s.events ++ q.toList.flatMap (fetchEvents 0 s.cfg.params s.timeout) ++ back ∧
      (∀ k bs n, StreamEvent.write k bs n ∈ back →
        bs = e4wRequest s.cfg.params s.cfg.params.cmdDeviceWrite s.cfg.params.settingsBase
          (pageBytes (editedByte page e raw))) ∧
      exec .getField t = .next u ∧ NoStream t u ∧ u.mem = t.mem ∧ u.cached = true ∧ u.res.status = 0 ∧
      (match decodeValue e.codec raw with
        | .int x => u.res.vkind = 0 ∧ u.res.value = BitVec.ofInt 32 x
        | .disabled => u.res.vkind = 1
        | .bytes bs => u.res.vkind = 2 ∧ u.inbuf = bs)

/-- The rows SETTINGS_BLOCK, FIELD_TABLE_ENTRY and CODEC (R110, R111, R221, R224 to R229; what such a row does by itself is the model's reading, log entry 20): the block is fetched if absent, the entry looked up, the value on the port taken through the codec and back. The refusals of a CODEC row in their order (log entry 20): no entry, an entry of another codec, the reserved kind, and a kind or value the codec does not take. -/
def Obligations.SettingsRows : Prop :=
  (∀ s : State, s.cached = true → exec .settingsBlock s = .next (s.endOp {} [])) ∧
  (∀ (s : State) (r : Reply) (rest : List Reply), s.cached = false → s.linkUp = true → s.chanValid = true →
    r.payload.length = 256 → s.env.answers (r :: rest) →
    ∃ t, exec .settingsBlock s = .next t ∧ t.res = {} ∧ t.cached = true ∧
      (∀ a, readByte t.mem a = fetchedByte (readByte s.mem) r.payload a) ∧
      t.events = s.events ++ fetchEvents 0 s.cfg.params s.timeout r) ∧
  (∀ s : State, exec .fieldTableEntry s = .next
    (s.endOp { status := if (s.cfg.params.find s.opnd.field).isSome then 0x00 else 0x45 } [])) ∧
  (∀ (i : Instr) (tag : CodecTag) (s : State) (e : FieldEntry) (v : Value) (raw : List Byte),
    (i, tag) ∈ [(Instr.codecRaw, CodecTag.raw), (.codecBounded, .bounded), (.codecScaled, .scaled),
      (.codecString, .string)] →
    s.cfg.params.find s.opnd.field = some e → codecTag e.codec = tag → s.portValue = .ok v →
    encodeValue s.cfg.params.strPad e.width e.codec v = .ok raw →
    exec i s = .next
      (match decodeValue e.codec raw with
        | .int x => s.endOp { vkind := 0, value := BitVec.ofInt 32 x } []
        | .disabled => s.endOp { vkind := 1 } []
        | .bytes bs => s.endOp { vkind := 2, len := BitVec.ofNat 32 e.width } bs)) ∧
  (∀ (i : Instr) (tag : CodecTag) (s : State),
    (i, tag) ∈ [(Instr.codecRaw, CodecTag.raw), (.codecBounded, .bounded), (.codecScaled, .scaled),
      (.codecString, .string)] →
    (s.cfg.params.find s.opnd.field = none → exec i s = .next (s.endOp { status := 0x45 } [])) ∧
    ∀ e, s.cfg.params.find s.opnd.field = some e →
      (codecTag e.codec ≠ tag → exec i s = .next (s.endOp { status := 0x45 } [])) ∧
      (codecTag e.codec = tag →
        (s.opnd.vkind = 3 → exec i s = .next (s.endOp { status := 0x48 } [])) ∧
        ∀ v x, s.portValue = .ok v → encodeValue s.cfg.params.strPad e.width e.codec v = .error x →
          exec i s = .next (s.endOp { status := statusCode x } [])))

/-- The rows MARKER_VALUE and DIAG_STRING (R112, R113, R263, R264, R267, R268; by themselves the model's reading, log entry 21): the sequencer's field takes those bytes, padded to its width, in the mirror, which is fetched first if it was empty (`q`), and the page is written back. With a peer that acknowledges, the page goes out once; whatever becomes of the write back, the edit stays; a fetch that fails ends the row as it ends FETCH, the whole next state; without a stream or a channel nothing is touched, whether the mirror is populated or not. -/
def Obligations.OwnFieldRows : Prop :=
  ∀ (i : Instr) (f : Byte) (raw : List Byte) (e : FieldEntry) (s : State),
    (i, f, raw) ∈
      [(Instr.markerInvalid, s.cfg.params.fMarker, [(0x00 : Byte)]), (.markerValid, s.cfg.params.fMarker, [0x01]),
       (.diagFlashFail, s.cfg.params.fName, flashFailText ++ [s.cfg.params.strPad, s.cfg.params.strPad]),
       (.diagNotReady, s.cfg.params.fName,
         notReadyText ++ [s.cfg.params.strPad, s.cfg.params.strPad, s.cfg.params.strPad])] →
    s.cfg.params.find f = some e →
    (∀ (q : Option Reply) (r : Reply) (rest : List Reply) (page : Nat → Byte), s.linkUp = true → s.chanValid = true →
      s.cached = q.isNone → (∀ x ∈ q, x.payload.length = 256) →
      page = q.elim (readByte s.mem) (fun x => fetchedByte (readByte s.mem) x.payload) →
      s.env.answers (q.toList ++ r :: rest) →
      ∃ t, exec i s = .next t ∧ Ended t ∧ t.res = {} ∧ t.inbuf = [] ∧ t.cached = true ∧
        (∀ a, readByte t.mem a = editedByte page e raw a) ∧
        t.events = s.events ++ q.toList.flatMap (fetchEvents 0 s.cfg.params s.timeout) ++
          pageEvents 0 s.cfg.params s.timeout (pageBytes (editedByte page e raw)) r ∧
        t.env = s.env.afterAnswers (q.toList.length + 1) ∧ SameHost s t ∧ SameChannel s t) ∧
    (∀ (q : Option Reply) (page : Nat → Byte), s.linkUp = true → s.chanValid = true → s.cached = q.isNone →
      s.env.abandon = [] → (∀ x ∈ q, x.payload.length = 256 ∧ s.env.answers [x]) →
      page = q.elim (readByte s.mem) (fun x => fetchedByte (readByte s.mem) x.payload) →
      ∃ t, exec i s = .next t ∧ t.cached = true ∧ ∀ a, readByte t.mem a = editedByte page e raw a) ∧
    (∀ u, s.cached = false → s.env.abandon = [] → exec .fetch s = .next u → u.res.status ≠ 0 →
      exec i s = .next u) ∧
    (s.linkUp = false → exec i s = .next (s.endOp { status := 0x40 } [])) ∧
    (s.linkUp = true → s.chanValid = false → exec i s = .next (s.endOp { status := 0x41 } []))

/-! ## Codes -/

/-- Reserved operation codes (30_encoding.md R121): the operation ends at once with `UnknownOp`; the whole next state shows that no other state than the result registers and the handshake bits is touched and no stream event issued. `SEQ_STEP <- 0` is the error entry's (R300); that `INBUF` holds `R_LEN` bytes is the model's reading (log entry 11), and the packet buffers are empty between operations (R30; log entry 14). -/
def Obligations.ReservedOperationCodes : Prop :=
  ∀ (i : Instr) (s : State), i = .reservedOp0 ∨ i = .reservedOpE ∨ i = .reservedOpF →
    exec i s = .next
      { s with
          res := { status := 0x47 }, inbuf := [], txbuf := [], rxbuf := [], seqStep := 0, busy := false, done := true }

/-- The rows of STATUS_CODE and VALUE_KIND (60_exceptions.md R290, R292, R293, 30_encoding.md R122; by themselves the model's reading, log entries 15 and 17): the operation in `OP` ends at once with that status and 0 in every register its rule names no value for; `CommandError` keeps the acknowledgement; a wrapping puts `R_STATUS` into `R_CAUSE` and `SEQ_STEP` into `R_STEP`; a value kind goes into `A_VKIND`. -/
def Obligations.StatusAndKindRows : Prop :=
  ∀ s : State,
    (∀ i e, (i, e) ∈ statusRows → exec i s = .next (s.endOp { status := statusCode e } [])) ∧
    exec .statusOk s = .next (s.endOp {} []) ∧
    exec .statusCommandError s = .next (s.endOp { status := 0x20, ack := s.res.ack } []) ∧
    (∀ i code, (i, code) ∈ [(Instr.statusSequenceError, (0x30 : Byte)), (.statusChannelInitError, 0x31)] →
      ∃ t, exec i s = .next t ∧ Ended t ∧ t.res.status = code ∧ t.res.cause = s.res.status ∧
        t.res.step = s.seqStep ∧ t.res.ack = s.res.ack ∧ t.res.len = 0 ∧ t.inbuf = [] ∧ SameHost s t ∧
        SameCache s t ∧ SameChannel s t ∧ NoStream s t) ∧
    (∀ i k, (i, k) ∈ valueKindRows → exec i s = .next { s with opnd := { s.opnd with vkind := k } })

/-! ## The Flash Sequencer -/

/-- FLASH_ALL with a peer that acknowledges every transaction (44_flash_sequencer.md R260, R261, R262 to R269): the eight steps in order, each with its own transactions and page, one fetch in step 2 exactly when the mirror was empty (`q`); afterwards the channel is released, and where the sequencer's four fields share no byte the marker reads 1, both version bytes 0 and the name `NOT READY` (R272). -/
def Obligations.FlashAllCompletes : Prop :=
  ∀ (s : State) (m j n d : FieldEntry) (r1 : Reply) (q : Option Reply) (r2 r3 r4 : Reply) (rf : List Reply)
    (r6 r7 r8 : Reply) (rest : List Reply) (page : Nat → Byte),
    s.linkUp = true → s.cfg.params.fwBase.toNat + s.opnd.len.toNat ≤ 65536 → s.fw.length = s.opnd.len.toNat →
    s.cfg.params.find s.cfg.params.fMarker = some m → s.cfg.params.find s.cfg.params.fVerMajor = some j →
    s.cfg.params.find s.cfg.params.fVerMinor = some n → s.cfg.params.find s.cfg.params.fName = some d →
    s.cached = q.isNone → (∀ x ∈ q, x.payload.length = 256) →
    page = q.elim (readByte s.mem) (fun x => fetchedByte (readByte s.mem) x.payload) →
    rf.length = chunkCount s.opnd.len.toNat →
    s.env.answers (r1 :: q.toList ++ [r2, r3, r4] ++ rf ++ [r6, r7, r8] ++ rest) →
    ∃ t, exec .flashAll s = .next t ∧ Ended t ∧ t.res = { xfer := s.opnd.len } ∧ t.inbuf = [] ∧
      t.chanValid = false ∧ t.chan = s.opnd.chan ∧ t.cached = true ∧
      (∀ a, readByte t.mem a = page7 s.cfg.params m j n d page a) ∧
      t.events = s.events ++ flashEvents s m j n d page r1 q r2 r3 r4 rf r6 r7 r8 ∧ SameHost s t ∧
      (ownFields s.cfg.params m j n d →
        readByte t.mem m.offset = 0x01 ∧ readByte t.mem j.offset = 0x00 ∧ readByte t.mem n.offset = 0x00 ∧
        readBytes t.mem d.offset 12 =
          notReadyText ++ [s.cfg.params.strPad, s.cfg.params.strPad, s.cfg.params.strPad])

/-- What FLASH_ALL reports, whatever the peer answers (R260, R270, R293, R295): success, or the step that failed, the cause under `ChannelInitError` in step 1 and `SequenceError` after it, and the firmware bytes acknowledged; the channel is valid exactly when a step from 2 to 7 failed. `R_STEP` is the step in which the last stream event was issued (log entry 13), 8 where the run succeeds, and `R_XFER` after a failure in step 5 is 256 times the number of its chunks that were acknowledged (`ts`). -/
def Obligations.FlashAllReports : Prop :=
  ∀ s : State, s.linkUp = true → s.cfg.params.fwBase.toNat + s.opnd.len.toNat ≤ 65536 →
    s.fw.length = s.opnd.len.toNat → s.env.abandon = [] →
    ∃ (t : State) (new : List StreamEvent), exec .flashAll s = .next t ∧ t.events = s.events ++ new ∧ t.res.len = 0 ∧
      new.getLast?.map StreamEvent.step = some (if t.res.status = 0x00 then 8 else t.res.step) ∧
      ((t.res.status = 0x00 ∧ t.res.step = 0 ∧ t.res.cause = 0x00 ∧ t.res.ack = 0x00 ∧ t.res.xfer = s.opnd.len ∧
          t.chanValid = false) ∨
        (1 ≤ t.res.step.toNat ∧ t.res.step.toNat ≤ 8 ∧
          t.res.status = (if t.res.step = 1 then 0x31 else 0x30) ∧
          t.res.cause ∈ [(0x11 : Byte), 0x12, 0x13, 0x14, 0x20] ∧
          (t.res.cause = 0x11 → t.res.step = 2 ∧ s.cached = false) ∧
          (t.res.ack ≠ 0x00 ↔ t.res.cause = 0x20) ∧
          (t.res.step.toNat < 5 → t.res.xfer = 0) ∧
          (t.res.step = 5 → t.res.xfer.toNat < s.opnd.len.toNat ∧
            ∃ (ts : List (List StreamEvent)) (last : List StreamEvent),
              new.filter (fun e => e.step == 5) = ts.flatten ++ last ∧ last.length ≤ 3 ∧
              (∀ es ∈ ts, acknowledged es) ∧ ¬acknowledged last ∧ t.res.xfer.toNat = 256 * ts.length) ∧
          (5 < t.res.step.toNat → t.res.xfer = s.opnd.len) ∧
          (t.chanValid = true ↔ 2 ≤ t.res.step.toNat ∧ t.res.step.toNat ≤ 7)))

/-- THE FAIL-SAFE ORDER OF SENDS (R271 (a), R342), whatever the peer answers and wherever the host abandons the session (log entry 9), each event standing in the step it carries (log entry 13): every settings page written in steps 2, 3, 4 and 6 carries 0x00 at the marker's offset, the page of step 7 carries 0x01, and step 7 writes it only after every transaction before it was acknowledged, one for every firmware chunk among them. A write of 263 bytes in those steps is a device-write of the settings page (R70). -/
def Obligations.MarkerOrder : Prop :=
  ∀ (s t : State) (m j n d : FieldEntry), ownFields s.cfg.params m j n d → exec .flashAll s = .next t →
    ∃ new, t.events = s.events ++ new ∧
      (∀ k bs w, StreamEvent.write k bs w ∈ new → k = 2 ∨ k = 3 ∨ k = 4 ∨ k = 6 → bs.length = 263 →
        bs.getD (5 + m.offset) 0 = 0x00) ∧
      (∀ k bs w, StreamEvent.write k bs w ∈ new → k = 7 → bs.length = 263 ∧ bs.getD (5 + m.offset) 0 = 0x01) ∧
      (∀ pre bs w post, new = pre ++ .write 7 bs w :: post →
        ∃ ts : List (List StreamEvent), pre = ts.flatten ∧ (∀ es ∈ ts, acknowledged es) ∧
          ts.length = chunkCount s.opnd.len.toNat + (if s.cached then 5 else 6))

/-- THE FAIL-SAFE STATE OF THE MIRROR (R271 (b), R262, R263, R268, R269, R272), whatever the peer answers: a failure in step 1 leaves the mirror and `CACHED` alone; a failure in step 2 leaves the mirror alone where the fetch failed, and the marker 0x00 where the mirror was populated or the fetch passed; a failure in steps 3 to 6 leaves the mirror's marker 0x00; a failure in step 7 or 8 and a complete run leave it 0x01, and a failure in step 5 leaves the name `FLASH FAIL`. -/
def Obligations.MarkerInMirror : Prop :=
  ∀ (s : State) (m j n d : FieldEntry), ownFields s.cfg.params m j n d → s.linkUp = true →
    s.cfg.params.fwBase.toNat + s.opnd.len.toNat ≤ 65536 → s.fw.length = s.opnd.len.toNat →
    s.env.abandon = [] →
    ∃ t, exec .flashAll s = .next t ∧
      (t.res.step = 1 → t.mem = s.mem ∧ t.cached = s.cached) ∧
      (t.res.step = 2 → (s.cached = true → t.cached = true) ∧ (t.cached = false → t.mem = s.mem) ∧
        (t.cached = true → readByte t.mem m.offset = 0x00)) ∧
      (3 ≤ t.res.step.toNat → t.res.step.toNat ≤ 6 → readByte t.mem m.offset = 0x00) ∧
      (t.res.step = 5 → readBytes t.mem d.offset 12 = flashFailText ++ [s.cfg.params.strPad, s.cfg.params.strPad]) ∧
      (t.res.step = 7 ∨ t.res.step = 8 ∨ t.res.status = 0x00 → readByte t.mem m.offset = 0x01)
end

