-- ==== Sys2Proof/Laws/Memory.lean ====
section
/-! SUPPORT. The mirror as a memory: reading after writing, and the canonical form kept by every write. -/

namespace Sys2Proof.Machine

theorem readByte_of_not_mem (m : Memory) (a : Nat) (h : ∀ c ∈ m, c.1 ≠ a) : readByte m a = unlistedByte := by
  induction m with
  | nil => rfl
  | cons c m ih =>
    have hc : c.1 ≠ a := h c (by simp)
    simp only [readByte, if_neg hc]
    exact ih fun d hd => h d (by simp [hd])

theorem readByte_append (m n : Memory) (a : Nat) :
    readByte (m ++ n) a = if a ∈ m.map Prod.fst then readByte m a else readByte n a := by
  induction m with
  | nil => simp
  | cons c m ih =>
    by_cases hc : c.1 = a
    · simp [readByte, hc]
    · simp [readByte, hc, ih, Ne.symm hc]

theorem readByte_filter (m : Memory) (p : Nat → Bool) (a : Nat) :
    readByte (m.filter (fun c => p c.1)) a = if p a then readByte m a else unlistedByte := by
  induction m with
  | nil => simp [readByte]
  | cons c m ih =>
    by_cases hc : c.1 = a
    · subst hc
      by_cases hp : p c.1
      · simp [hp, readByte]
      · simp only [List.filter_cons, hp]
        simpa [hp] using ih
    · by_cases hp : p c.1
      · simp [hp, readByte, hc, ih]
      · simp [hp, readByte, hc, ih]

/-- The addresses listed for a run lie in the run. -/
theorem cellsFrom_range (bs : List Byte) (a : Nat) :
    ∀ c ∈ cellsFrom a bs, a ≤ c.1 ∧ c.1 < a + bs.length ∧ c.2 ≠ unlistedByte := by
  induction bs generalizing a with
  | nil => simp [cellsFrom]
  | cons b bs ih =>
    intro c hc
    by_cases hb : b = unlistedByte
    · simp only [cellsFrom, if_pos hb] at hc
      obtain ⟨h1, h2, h3⟩ := ih (a + 1) c hc
      refine ⟨by omega, ?_, h3⟩
      simp only [List.length_cons]; omega
    · simp only [cellsFrom, if_neg hb, List.mem_cons] at hc
      rcases hc with rfl | hc
      · exact ⟨le_refl _, by simp, hb⟩
      · obtain ⟨h1, h2, h3⟩ := ih (a + 1) c hc
        refine ⟨by omega, ?_, h3⟩
        simp only [List.length_cons]; omega

theorem cellsFrom_sorted (bs : List Byte) (a : Nat) :
    (cellsFrom a bs).Pairwise (fun c d => c.1 < d.1) := by
  induction bs generalizing a with
  | nil => simp [cellsFrom]
  | cons b bs ih =>
    by_cases hb : b = unlistedByte
    · simpa [cellsFrom, hb] using ih (a + 1)
    · simp only [cellsFrom, if_neg hb, List.pairwise_cons]
      exact ⟨fun c hc => by have := (cellsFrom_range bs (a + 1) c hc).1; show a < c.1; omega, ih (a + 1)⟩

theorem readByte_cellsFrom (bs : List Byte) (a x : Nat) :
    readByte (cellsFrom a bs) x = if a ≤ x ∧ x < a + bs.length then bs.getD (x - a) 0 else unlistedByte := by
  induction bs generalizing a with
  | nil => simp [cellsFrom, readByte]
  | cons b bs ih =>
    rcases lt_trichotomy x a with hx | rfl | hx
    · rw [readByte_of_not_mem _ _ fun c hc => by have := (cellsFrom_range _ _ c hc).1; omega]
      rw [if_neg (by omega)]
    · by_cases hb : b = unlistedByte
      · simp only [cellsFrom, if_pos hb, ih]
        rw [if_neg (by omega), if_pos (by simp)]
        simp [hb]
      · simp [cellsFrom, if_neg hb, readByte]
    · have hcons : readByte (cellsFrom a (b :: bs)) x = readByte (cellsFrom (a + 1) bs) x := by
        by_cases hb : b = unlistedByte
        · simp [cellsFrom, hb]
        · simp [cellsFrom, hb, readByte, show a ≠ x by omega]
      rw [hcons, ih]
      obtain ⟨k, rfl⟩ : ∃ k, x = a + 1 + k := ⟨x - (a + 1), by omega⟩
      have e1 : a + 1 + k - (a + 1) = k := by omega
      have e2 : a + 1 + k - a = k + 1 := by omega
      rw [e1, e2]
      simp only [List.length_cons, List.getD_cons_succ]
      by_cases hk : k < bs.length
      · rw [if_pos ⟨by omega, by omega⟩, if_pos ⟨by omega, by omega⟩]
      · rw [if_neg (by omega), if_neg (by omega)]

/-- Reading after a write: the bytes of the run, and every other byte as before. -/
theorem readByte_writeBytes (m : Memory) (a : Nat) (bs : List Byte) (x : Nat) :
    readByte (writeBytes m a bs) x =
      if a ≤ x ∧ x < a + bs.length then bs.getD (x - a) 0 else readByte m x := by
  have low := readByte_filter m (fun k => decide (k < a)) x
  have high := readByte_filter m (fun k => decide (a + bs.length ≤ k)) x
  have mem1 : x ∈ (m.filter (fun c => decide (c.1 < a))).map Prod.fst → x < a := by
    intro h; obtain ⟨c, hc, rfl⟩ := List.mem_map.1 h; simpa using (List.mem_filter.1 hc).2
  have mem2 : x ∈ (cellsFrom a bs).map Prod.fst → a ≤ x ∧ x < a + bs.length := by
    intro h; obtain ⟨c, hc, rfl⟩ := List.mem_map.1 h
    obtain ⟨h1, h2, -⟩ := cellsFrom_range bs a c hc; exact ⟨h1, h2⟩
  rw [writeBytes, List.append_assoc, readByte_append, readByte_append, low, high, readByte_cellsFrom]
  by_cases hl : x < a
  · have h2 : x ∉ (cellsFrom a bs).map Prod.fst := fun h => by have := mem2 h; omega
    have hno : ¬(a ≤ x ∧ x < a + bs.length) := by omega
    rw [if_neg h2, if_neg hno]
    by_cases h1 : x ∈ (m.filter (fun c => decide (c.1 < a))).map Prod.fst
    · rw [if_pos h1, if_pos (by simpa using hl)]
    · rw [if_neg h1, if_neg (by simp; omega)]
      refine (readByte_of_not_mem m x ?_).symm
      rintro c hc rfl
      exact h1 (List.mem_map.2 ⟨c, List.mem_filter.2 ⟨hc, by simpa using hl⟩, rfl⟩)
  · rw [if_neg fun h => hl (mem1 h)]
    by_cases hr : a ≤ x ∧ x < a + bs.length
    · rw [if_pos hr]
      by_cases h2 : x ∈ (cellsFrom a bs).map Prod.fst
      · rw [if_pos h2, if_pos hr]
      · rw [if_neg h2, if_neg (by simp; omega), if_pos hr]
        have hx := readByte_cellsFrom bs a x
        rw [if_pos hr] at hx
        rw [← hx]
        refine (readByte_of_not_mem _ x ?_).symm
        rintro c hc rfl
        exact h2 (List.mem_map.2 ⟨c, hc, rfl⟩)
    · rw [if_neg fun h => hr (mem2 h), if_neg hr, if_pos (by simp; omega)]

/-- A write within the mirror keeps the canonical form. -/
theorem writeBytes_wf (m : Memory) (a : Nat) (bs : List Byte) (h : Memory.wf m) (ha : a + bs.length ≤ 256) :
    Memory.wf (writeBytes m a bs) := by
  obtain ⟨hs, hm⟩ := h
  constructor
  · rw [writeBytes, List.append_assoc, List.pairwise_append, List.pairwise_append]
    refine ⟨hs.filter _, ⟨cellsFrom_sorted bs a, hs.filter _, ?_⟩, ?_⟩
    · intro c hc d hd
      have := (cellsFrom_range bs a c hc).2.1
      have := (List.mem_filter.1 hd).2
      simp only [decide_eq_true_eq] at this
      omega
    · intro c hc d hd
      have h1 := (List.mem_filter.1 hc).2
      simp only [decide_eq_true_eq] at h1
      rcases List.mem_append.1 hd with hd | hd
      · have := (cellsFrom_range bs a d hd).1; omega
      · have := (List.mem_filter.1 hd).2
        simp only [decide_eq_true_eq] at this
        omega
  · intro c hc
    rcases List.mem_append.1 hc with hc | hc
    · rcases List.mem_append.1 hc with hc | hc
      · exact hm c (List.mem_filter.1 hc).1
      · obtain ⟨h1, h2, h3⟩ := cellsFrom_range bs a c hc
        exact ⟨by omega, h3⟩
    · exact hm c (List.mem_filter.1 hc).1

@[simp] theorem readBytes_length (m : Memory) (a n : Nat) : (readBytes m a n).length = n := by
  simp [readBytes]

theorem readBytes_getD (m : Memory) (a n i : Nat) (h : i < n) :
    (readBytes m a n).getD i 0 = readByte m (a + i) := by
  simp [readBytes, List.getD_eq_getElem?_getD, List.getElem?_map, List.getElem?_range h]

/-- A run read back after it was written is the bytes written. -/
theorem readBytes_writeBytes (m : Memory) (a : Nat) (bs : List Byte) :
    readBytes (writeBytes m a bs) a bs.length = bs := by
  apply List.ext_getElem (by simp)
  intro i h1 h2
  have := readBytes_getD (writeBytes m a bs) a bs.length i h2
  rw [readByte_writeBytes, if_pos ⟨by omega, by omega⟩, show a + i - a = i by omega] at this
  simpa [List.getD_eq_getElem?_getD, h1, h2] using this

/-- The empty mirror is in canonical form. -/
theorem wf_nil : Memory.wf [] := ⟨List.Pairwise.nil, by intro c hc; cases hc⟩

end Sys2Proof.Machine
end

