-- ==== Sys2Proof/Laws/State.lean ====
section
/-! SUPPORT. One lemma per field per update of the state, so that no later proof unfolds a record update. -/

namespace Sys2Proof.Machine.State

section
variable (s : State) (m : Memory)
@[simp] theorem setMem_cfg : (s.setMem m).cfg = s.cfg := rfl
@[simp] theorem setMem_mem : (s.setMem m).mem = m := rfl
@[simp] theorem setMem_cached : (s.setMem m).cached = s.cached := rfl
@[simp] theorem setMem_chanValid : (s.setMem m).chanValid = s.chanValid := rfl
@[simp] theorem setMem_chan : (s.setMem m).chan = s.chan := rfl
@[simp] theorem setMem_seqStep : (s.setMem m).seqStep = s.seqStep := rfl
@[simp] theorem setMem_timeout : (s.setMem m).timeout = s.timeout := rfl
@[simp] theorem setMem_opnd : (s.setMem m).opnd = s.opnd := rfl
@[simp] theorem setMem_res : (s.setMem m).res = s.res := rfl
@[simp] theorem setMem_outbuf : (s.setMem m).outbuf = s.outbuf := rfl
@[simp] theorem setMem_inbuf : (s.setMem m).inbuf = s.inbuf := rfl
@[simp] theorem setMem_txbuf : (s.setMem m).txbuf = s.txbuf := rfl
@[simp] theorem setMem_rxbuf : (s.setMem m).rxbuf = s.rxbuf := rfl
@[simp] theorem setMem_busy : (s.setMem m).busy = s.busy := rfl
@[simp] theorem setMem_done : (s.setMem m).done = s.done := rfl
@[simp] theorem setMem_linkUp : (s.setMem m).linkUp = s.linkUp := rfl
@[simp] theorem setMem_fw : (s.setMem m).fw = s.fw := rfl
@[simp] theorem setMem_env : (s.setMem m).env = s.env := rfl
@[simp] theorem setMem_events : (s.setMem m).events = s.events := rfl
@[simp] theorem setMem_inputs : (s.setMem m).inputs = s.inputs := rfl
end

section
variable (s : State)
@[simp] theorem setCached_cfg : (s.setCached).cfg = s.cfg := rfl
@[simp] theorem setCached_mem : (s.setCached).mem = s.mem := rfl
@[simp] theorem setCached_cached : (s.setCached).cached = true := rfl
@[simp] theorem setCached_chanValid : (s.setCached).chanValid = s.chanValid := rfl
@[simp] theorem setCached_chan : (s.setCached).chan = s.chan := rfl
@[simp] theorem setCached_seqStep : (s.setCached).seqStep = s.seqStep := rfl
@[simp] theorem setCached_timeout : (s.setCached).timeout = s.timeout := rfl
@[simp] theorem setCached_opnd : (s.setCached).opnd = s.opnd := rfl
@[simp] theorem setCached_res : (s.setCached).res = s.res := rfl
@[simp] theorem setCached_outbuf : (s.setCached).outbuf = s.outbuf := rfl
@[simp] theorem setCached_inbuf : (s.setCached).inbuf = s.inbuf := rfl
@[simp] theorem setCached_txbuf : (s.setCached).txbuf = s.txbuf := rfl
@[simp] theorem setCached_rxbuf : (s.setCached).rxbuf = s.rxbuf := rfl
@[simp] theorem setCached_busy : (s.setCached).busy = s.busy := rfl
@[simp] theorem setCached_done : (s.setCached).done = s.done := rfl
@[simp] theorem setCached_linkUp : (s.setCached).linkUp = s.linkUp := rfl
@[simp] theorem setCached_fw : (s.setCached).fw = s.fw := rfl
@[simp] theorem setCached_env : (s.setCached).env = s.env := rfl
@[simp] theorem setCached_events : (s.setCached).events = s.events := rfl
@[simp] theorem setCached_inputs : (s.setCached).inputs = s.inputs := rfl
end

section
variable (s : State)
@[simp] theorem clearChan_cfg : (s.clearChan).cfg = s.cfg := rfl
@[simp] theorem clearChan_mem : (s.clearChan).mem = s.mem := rfl
@[simp] theorem clearChan_cached : (s.clearChan).cached = s.cached := rfl
@[simp] theorem clearChan_chanValid : (s.clearChan).chanValid = false := rfl
@[simp] theorem clearChan_chan : (s.clearChan).chan = s.chan := rfl
@[simp] theorem clearChan_seqStep : (s.clearChan).seqStep = s.seqStep := rfl
@[simp] theorem clearChan_timeout : (s.clearChan).timeout = s.timeout := rfl
@[simp] theorem clearChan_opnd : (s.clearChan).opnd = s.opnd := rfl
@[simp] theorem clearChan_res : (s.clearChan).res = s.res := rfl
@[simp] theorem clearChan_outbuf : (s.clearChan).outbuf = s.outbuf := rfl
@[simp] theorem clearChan_inbuf : (s.clearChan).inbuf = s.inbuf := rfl
@[simp] theorem clearChan_txbuf : (s.clearChan).txbuf = s.txbuf := rfl
@[simp] theorem clearChan_rxbuf : (s.clearChan).rxbuf = s.rxbuf := rfl
@[simp] theorem clearChan_busy : (s.clearChan).busy = s.busy := rfl
@[simp] theorem clearChan_done : (s.clearChan).done = s.done := rfl
@[simp] theorem clearChan_linkUp : (s.clearChan).linkUp = s.linkUp := rfl
@[simp] theorem clearChan_fw : (s.clearChan).fw = s.fw := rfl
@[simp] theorem clearChan_env : (s.clearChan).env = s.env := rfl
@[simp] theorem clearChan_events : (s.clearChan).events = s.events := rfl
@[simp] theorem clearChan_inputs : (s.clearChan).inputs = s.inputs := rfl
end

section
variable (s : State) (c : Byte)
@[simp] theorem setChan_cfg : (s.setChan c).cfg = s.cfg := rfl
@[simp] theorem setChan_mem : (s.setChan c).mem = s.mem := rfl
@[simp] theorem setChan_cached : (s.setChan c).cached = s.cached := rfl
@[simp] theorem setChan_chanValid : (s.setChan c).chanValid = true := rfl
@[simp] theorem setChan_chan : (s.setChan c).chan = c := rfl
@[simp] theorem setChan_seqStep : (s.setChan c).seqStep = s.seqStep := rfl
@[simp] theorem setChan_timeout : (s.setChan c).timeout = s.timeout := rfl
@[simp] theorem setChan_opnd : (s.setChan c).opnd = s.opnd := rfl
@[simp] theorem setChan_res : (s.setChan c).res = s.res := rfl
@[simp] theorem setChan_outbuf : (s.setChan c).outbuf = s.outbuf := rfl
@[simp] theorem setChan_inbuf : (s.setChan c).inbuf = s.inbuf := rfl
@[simp] theorem setChan_txbuf : (s.setChan c).txbuf = s.txbuf := rfl
@[simp] theorem setChan_rxbuf : (s.setChan c).rxbuf = s.rxbuf := rfl
@[simp] theorem setChan_busy : (s.setChan c).busy = s.busy := rfl
@[simp] theorem setChan_done : (s.setChan c).done = s.done := rfl
@[simp] theorem setChan_linkUp : (s.setChan c).linkUp = s.linkUp := rfl
@[simp] theorem setChan_fw : (s.setChan c).fw = s.fw := rfl
@[simp] theorem setChan_env : (s.setChan c).env = s.env := rfl
@[simp] theorem setChan_events : (s.setChan c).events = s.events := rfl
@[simp] theorem setChan_inputs : (s.setChan c).inputs = s.inputs := rfl
end

section
variable (s : State) (k : BitVec 4)
@[simp] theorem setSeqStep_cfg : (s.setSeqStep k).cfg = s.cfg := rfl
@[simp] theorem setSeqStep_mem : (s.setSeqStep k).mem = s.mem := rfl
@[simp] theorem setSeqStep_cached : (s.setSeqStep k).cached = s.cached := rfl
@[simp] theorem setSeqStep_chanValid : (s.setSeqStep k).chanValid = s.chanValid := rfl
@[simp] theorem setSeqStep_chan : (s.setSeqStep k).chan = s.chan := rfl
@[simp] theorem setSeqStep_seqStep : (s.setSeqStep k).seqStep = k := rfl
@[simp] theorem setSeqStep_timeout : (s.setSeqStep k).timeout = s.timeout := rfl
@[simp] theorem setSeqStep_opnd : (s.setSeqStep k).opnd = s.opnd := rfl
@[simp] theorem setSeqStep_res : (s.setSeqStep k).res = s.res := rfl
@[simp] theorem setSeqStep_outbuf : (s.setSeqStep k).outbuf = s.outbuf := rfl
@[simp] theorem setSeqStep_inbuf : (s.setSeqStep k).inbuf = s.inbuf := rfl
@[simp] theorem setSeqStep_txbuf : (s.setSeqStep k).txbuf = s.txbuf := rfl
@[simp] theorem setSeqStep_rxbuf : (s.setSeqStep k).rxbuf = s.rxbuf := rfl
@[simp] theorem setSeqStep_busy : (s.setSeqStep k).busy = s.busy := rfl
@[simp] theorem setSeqStep_done : (s.setSeqStep k).done = s.done := rfl
@[simp] theorem setSeqStep_linkUp : (s.setSeqStep k).linkUp = s.linkUp := rfl
@[simp] theorem setSeqStep_fw : (s.setSeqStep k).fw = s.fw := rfl
@[simp] theorem setSeqStep_env : (s.setSeqStep k).env = s.env := rfl
@[simp] theorem setSeqStep_events : (s.setSeqStep k).events = s.events := rfl
@[simp] theorem setSeqStep_inputs : (s.setSeqStep k).inputs = s.inputs := rfl
end

section
variable (s : State) (a : Byte)
@[simp] theorem setAck_cfg : (s.setAck a).cfg = s.cfg := rfl
@[simp] theorem setAck_mem : (s.setAck a).mem = s.mem := rfl
@[simp] theorem setAck_cached : (s.setAck a).cached = s.cached := rfl
@[simp] theorem setAck_chanValid : (s.setAck a).chanValid = s.chanValid := rfl
@[simp] theorem setAck_chan : (s.setAck a).chan = s.chan := rfl
@[simp] theorem setAck_seqStep : (s.setAck a).seqStep = s.seqStep := rfl
@[simp] theorem setAck_timeout : (s.setAck a).timeout = s.timeout := rfl
@[simp] theorem setAck_opnd : (s.setAck a).opnd = s.opnd := rfl
@[simp] theorem setAck_res : (s.setAck a).res = { s.res with ack := a } := rfl
@[simp] theorem setAck_outbuf : (s.setAck a).outbuf = s.outbuf := rfl
@[simp] theorem setAck_inbuf : (s.setAck a).inbuf = s.inbuf := rfl
@[simp] theorem setAck_txbuf : (s.setAck a).txbuf = s.txbuf := rfl
@[simp] theorem setAck_rxbuf : (s.setAck a).rxbuf = s.rxbuf := rfl
@[simp] theorem setAck_busy : (s.setAck a).busy = s.busy := rfl
@[simp] theorem setAck_done : (s.setAck a).done = s.done := rfl
@[simp] theorem setAck_linkUp : (s.setAck a).linkUp = s.linkUp := rfl
@[simp] theorem setAck_fw : (s.setAck a).fw = s.fw := rfl
@[simp] theorem setAck_env : (s.setAck a).env = s.env := rfl
@[simp] theorem setAck_events : (s.setAck a).events = s.events := rfl
@[simp] theorem setAck_inputs : (s.setAck a).inputs = s.inputs := rfl
end

section
variable (s : State) (x : Word)
@[simp] theorem setXfer_cfg : (s.setXfer x).cfg = s.cfg := rfl
@[simp] theorem setXfer_mem : (s.setXfer x).mem = s.mem := rfl
@[simp] theorem setXfer_cached : (s.setXfer x).cached = s.cached := rfl
@[simp] theorem setXfer_chanValid : (s.setXfer x).chanValid = s.chanValid := rfl
@[simp] theorem setXfer_chan : (s.setXfer x).chan = s.chan := rfl
@[simp] theorem setXfer_seqStep : (s.setXfer x).seqStep = s.seqStep := rfl
@[simp] theorem setXfer_timeout : (s.setXfer x).timeout = s.timeout := rfl
@[simp] theorem setXfer_opnd : (s.setXfer x).opnd = s.opnd := rfl
@[simp] theorem setXfer_res : (s.setXfer x).res = { s.res with xfer := x } := rfl
@[simp] theorem setXfer_outbuf : (s.setXfer x).outbuf = s.outbuf := rfl
@[simp] theorem setXfer_inbuf : (s.setXfer x).inbuf = s.inbuf := rfl
@[simp] theorem setXfer_txbuf : (s.setXfer x).txbuf = s.txbuf := rfl
@[simp] theorem setXfer_rxbuf : (s.setXfer x).rxbuf = s.rxbuf := rfl
@[simp] theorem setXfer_busy : (s.setXfer x).busy = s.busy := rfl
@[simp] theorem setXfer_done : (s.setXfer x).done = s.done := rfl
@[simp] theorem setXfer_linkUp : (s.setXfer x).linkUp = s.linkUp := rfl
@[simp] theorem setXfer_fw : (s.setXfer x).fw = s.fw := rfl
@[simp] theorem setXfer_env : (s.setXfer x).env = s.env := rfl
@[simp] theorem setXfer_events : (s.setXfer x).events = s.events := rfl
@[simp] theorem setXfer_inputs : (s.setXfer x).inputs = s.inputs := rfl
end

section
variable (s : State) (bs : List Byte)
@[simp] theorem setInbuf_cfg : (s.setInbuf bs).cfg = s.cfg := rfl
@[simp] theorem setInbuf_mem : (s.setInbuf bs).mem = s.mem := rfl
@[simp] theorem setInbuf_cached : (s.setInbuf bs).cached = s.cached := rfl
@[simp] theorem setInbuf_chanValid : (s.setInbuf bs).chanValid = s.chanValid := rfl
@[simp] theorem setInbuf_chan : (s.setInbuf bs).chan = s.chan := rfl
@[simp] theorem setInbuf_seqStep : (s.setInbuf bs).seqStep = s.seqStep := rfl
@[simp] theorem setInbuf_timeout : (s.setInbuf bs).timeout = s.timeout := rfl
@[simp] theorem setInbuf_opnd : (s.setInbuf bs).opnd = s.opnd := rfl
@[simp] theorem setInbuf_res : (s.setInbuf bs).res = s.res := rfl
@[simp] theorem setInbuf_outbuf : (s.setInbuf bs).outbuf = s.outbuf := rfl
@[simp] theorem setInbuf_inbuf : (s.setInbuf bs).inbuf = bs := rfl
@[simp] theorem setInbuf_txbuf : (s.setInbuf bs).txbuf = s.txbuf := rfl
@[simp] theorem setInbuf_rxbuf : (s.setInbuf bs).rxbuf = s.rxbuf := rfl
@[simp] theorem setInbuf_busy : (s.setInbuf bs).busy = s.busy := rfl
@[simp] theorem setInbuf_done : (s.setInbuf bs).done = s.done := rfl
@[simp] theorem setInbuf_linkUp : (s.setInbuf bs).linkUp = s.linkUp := rfl
@[simp] theorem setInbuf_fw : (s.setInbuf bs).fw = s.fw := rfl
@[simp] theorem setInbuf_env : (s.setInbuf bs).env = s.env := rfl
@[simp] theorem setInbuf_events : (s.setInbuf bs).events = s.events := rfl
@[simp] theorem setInbuf_inputs : (s.setInbuf bs).inputs = s.inputs := rfl
end

section
variable (s : State) (bs : List Byte)
@[simp] theorem setTx_cfg : (s.setTx bs).cfg = s.cfg := rfl
@[simp] theorem setTx_mem : (s.setTx bs).mem = s.mem := rfl
@[simp] theorem setTx_cached : (s.setTx bs).cached = s.cached := rfl
@[simp] theorem setTx_chanValid : (s.setTx bs).chanValid = s.chanValid := rfl
@[simp] theorem setTx_chan : (s.setTx bs).chan = s.chan := rfl
@[simp] theorem setTx_seqStep : (s.setTx bs).seqStep = s.seqStep := rfl
@[simp] theorem setTx_timeout : (s.setTx bs).timeout = s.timeout := rfl
@[simp] theorem setTx_opnd : (s.setTx bs).opnd = s.opnd := rfl
@[simp] theorem setTx_res : (s.setTx bs).res = s.res := rfl
@[simp] theorem setTx_outbuf : (s.setTx bs).outbuf = s.outbuf := rfl
@[simp] theorem setTx_inbuf : (s.setTx bs).inbuf = s.inbuf := rfl
@[simp] theorem setTx_txbuf : (s.setTx bs).txbuf = bs := rfl
@[simp] theorem setTx_rxbuf : (s.setTx bs).rxbuf = s.rxbuf := rfl
@[simp] theorem setTx_busy : (s.setTx bs).busy = s.busy := rfl
@[simp] theorem setTx_done : (s.setTx bs).done = s.done := rfl
@[simp] theorem setTx_linkUp : (s.setTx bs).linkUp = s.linkUp := rfl
@[simp] theorem setTx_fw : (s.setTx bs).fw = s.fw := rfl
@[simp] theorem setTx_env : (s.setTx bs).env = s.env := rfl
@[simp] theorem setTx_events : (s.setTx bs).events = s.events := rfl
@[simp] theorem setTx_inputs : (s.setTx bs).inputs = s.inputs := rfl
end

section
variable (s : State) (bs : List Byte)
@[simp] theorem setRx_cfg : (s.setRx bs).cfg = s.cfg := rfl
@[simp] theorem setRx_mem : (s.setRx bs).mem = s.mem := rfl
@[simp] theorem setRx_cached : (s.setRx bs).cached = s.cached := rfl
@[simp] theorem setRx_chanValid : (s.setRx bs).chanValid = s.chanValid := rfl
@[simp] theorem setRx_chan : (s.setRx bs).chan = s.chan := rfl
@[simp] theorem setRx_seqStep : (s.setRx bs).seqStep = s.seqStep := rfl
@[simp] theorem setRx_timeout : (s.setRx bs).timeout = s.timeout := rfl
@[simp] theorem setRx_opnd : (s.setRx bs).opnd = s.opnd := rfl
@[simp] theorem setRx_res : (s.setRx bs).res = s.res := rfl
@[simp] theorem setRx_outbuf : (s.setRx bs).outbuf = s.outbuf := rfl
@[simp] theorem setRx_inbuf : (s.setRx bs).inbuf = s.inbuf := rfl
@[simp] theorem setRx_txbuf : (s.setRx bs).txbuf = s.txbuf := rfl
@[simp] theorem setRx_rxbuf : (s.setRx bs).rxbuf = bs := rfl
@[simp] theorem setRx_busy : (s.setRx bs).busy = s.busy := rfl
@[simp] theorem setRx_done : (s.setRx bs).done = s.done := rfl
@[simp] theorem setRx_linkUp : (s.setRx bs).linkUp = s.linkUp := rfl
@[simp] theorem setRx_fw : (s.setRx bs).fw = s.fw := rfl
@[simp] theorem setRx_env : (s.setRx bs).env = s.env := rfl
@[simp] theorem setRx_events : (s.setRx bs).events = s.events := rfl
@[simp] theorem setRx_inputs : (s.setRx bs).inputs = s.inputs := rfl
end

section
variable (s : State) (k : BitVec 2)
@[simp] theorem setVkind_cfg : (s.setVkind k).cfg = s.cfg := rfl
@[simp] theorem setVkind_mem : (s.setVkind k).mem = s.mem := rfl
@[simp] theorem setVkind_cached : (s.setVkind k).cached = s.cached := rfl
@[simp] theorem setVkind_chanValid : (s.setVkind k).chanValid = s.chanValid := rfl
@[simp] theorem setVkind_chan : (s.setVkind k).chan = s.chan := rfl
@[simp] theorem setVkind_seqStep : (s.setVkind k).seqStep = s.seqStep := rfl
@[simp] theorem setVkind_timeout : (s.setVkind k).timeout = s.timeout := rfl
@[simp] theorem setVkind_opnd : (s.setVkind k).opnd = { s.opnd with vkind := k } := rfl
@[simp] theorem setVkind_res : (s.setVkind k).res = s.res := rfl
@[simp] theorem setVkind_outbuf : (s.setVkind k).outbuf = s.outbuf := rfl
@[simp] theorem setVkind_inbuf : (s.setVkind k).inbuf = s.inbuf := rfl
@[simp] theorem setVkind_txbuf : (s.setVkind k).txbuf = s.txbuf := rfl
@[simp] theorem setVkind_rxbuf : (s.setVkind k).rxbuf = s.rxbuf := rfl
@[simp] theorem setVkind_busy : (s.setVkind k).busy = s.busy := rfl
@[simp] theorem setVkind_done : (s.setVkind k).done = s.done := rfl
@[simp] theorem setVkind_linkUp : (s.setVkind k).linkUp = s.linkUp := rfl
@[simp] theorem setVkind_fw : (s.setVkind k).fw = s.fw := rfl
@[simp] theorem setVkind_env : (s.setVkind k).env = s.env := rfl
@[simp] theorem setVkind_events : (s.setVkind k).events = s.events := rfl
@[simp] theorem setVkind_inputs : (s.setVkind k).inputs = s.inputs := rfl
end

section
variable (s : State) (o : Operands)
@[simp] theorem setOpnd_cfg : (s.setOpnd o).cfg = s.cfg := rfl
@[simp] theorem setOpnd_mem : (s.setOpnd o).mem = s.mem := rfl
@[simp] theorem setOpnd_cached : (s.setOpnd o).cached = s.cached := rfl
@[simp] theorem setOpnd_chanValid : (s.setOpnd o).chanValid = s.chanValid := rfl
@[simp] theorem setOpnd_chan : (s.setOpnd o).chan = s.chan := rfl
@[simp] theorem setOpnd_seqStep : (s.setOpnd o).seqStep = s.seqStep := rfl
@[simp] theorem setOpnd_timeout : (s.setOpnd o).timeout = s.timeout := rfl
@[simp] theorem setOpnd_opnd : (s.setOpnd o).opnd = o := rfl
@[simp] theorem setOpnd_res : (s.setOpnd o).res = s.res := rfl
@[simp] theorem setOpnd_outbuf : (s.setOpnd o).outbuf = s.outbuf := rfl
@[simp] theorem setOpnd_inbuf : (s.setOpnd o).inbuf = s.inbuf := rfl
@[simp] theorem setOpnd_txbuf : (s.setOpnd o).txbuf = s.txbuf := rfl
@[simp] theorem setOpnd_rxbuf : (s.setOpnd o).rxbuf = s.rxbuf := rfl
@[simp] theorem setOpnd_busy : (s.setOpnd o).busy = s.busy := rfl
@[simp] theorem setOpnd_done : (s.setOpnd o).done = s.done := rfl
@[simp] theorem setOpnd_linkUp : (s.setOpnd o).linkUp = s.linkUp := rfl
@[simp] theorem setOpnd_fw : (s.setOpnd o).fw = s.fw := rfl
@[simp] theorem setOpnd_env : (s.setOpnd o).env = s.env := rfl
@[simp] theorem setOpnd_events : (s.setOpnd o).events = s.events := rfl
@[simp] theorem setOpnd_inputs : (s.setOpnd o).inputs = s.inputs := rfl
end

section
variable (s : State) (e : Env)
@[simp] theorem setEnv_cfg : (s.setEnv e).cfg = s.cfg := rfl
@[simp] theorem setEnv_mem : (s.setEnv e).mem = s.mem := rfl
@[simp] theorem setEnv_cached : (s.setEnv e).cached = s.cached := rfl
@[simp] theorem setEnv_chanValid : (s.setEnv e).chanValid = s.chanValid := rfl
@[simp] theorem setEnv_chan : (s.setEnv e).chan = s.chan := rfl
@[simp] theorem setEnv_seqStep : (s.setEnv e).seqStep = s.seqStep := rfl
@[simp] theorem setEnv_timeout : (s.setEnv e).timeout = s.timeout := rfl
@[simp] theorem setEnv_opnd : (s.setEnv e).opnd = s.opnd := rfl
@[simp] theorem setEnv_res : (s.setEnv e).res = s.res := rfl
@[simp] theorem setEnv_outbuf : (s.setEnv e).outbuf = s.outbuf := rfl
@[simp] theorem setEnv_inbuf : (s.setEnv e).inbuf = s.inbuf := rfl
@[simp] theorem setEnv_txbuf : (s.setEnv e).txbuf = s.txbuf := rfl
@[simp] theorem setEnv_rxbuf : (s.setEnv e).rxbuf = s.rxbuf := rfl
@[simp] theorem setEnv_busy : (s.setEnv e).busy = s.busy := rfl
@[simp] theorem setEnv_done : (s.setEnv e).done = s.done := rfl
@[simp] theorem setEnv_linkUp : (s.setEnv e).linkUp = s.linkUp := rfl
@[simp] theorem setEnv_fw : (s.setEnv e).fw = s.fw := rfl
@[simp] theorem setEnv_env : (s.setEnv e).env = e := rfl
@[simp] theorem setEnv_events : (s.setEnv e).events = s.events := rfl
@[simp] theorem setEnv_inputs : (s.setEnv e).inputs = s.inputs := rfl
end

section
variable (s : State) (e : StreamEvent)
@[simp] theorem addEvent_cfg : (s.addEvent e).cfg = s.cfg := rfl
@[simp] theorem addEvent_mem : (s.addEvent e).mem = s.mem := rfl
@[simp] theorem addEvent_cached : (s.addEvent e).cached = s.cached := rfl
@[simp] theorem addEvent_chanValid : (s.addEvent e).chanValid = s.chanValid := rfl
@[simp] theorem addEvent_chan : (s.addEvent e).chan = s.chan := rfl
@[simp] theorem addEvent_seqStep : (s.addEvent e).seqStep = s.seqStep := rfl
@[simp] theorem addEvent_timeout : (s.addEvent e).timeout = s.timeout := rfl
@[simp] theorem addEvent_opnd : (s.addEvent e).opnd = s.opnd := rfl
@[simp] theorem addEvent_res : (s.addEvent e).res = s.res := rfl
@[simp] theorem addEvent_outbuf : (s.addEvent e).outbuf = s.outbuf := rfl
@[simp] theorem addEvent_inbuf : (s.addEvent e).inbuf = s.inbuf := rfl
@[simp] theorem addEvent_txbuf : (s.addEvent e).txbuf = s.txbuf := rfl
@[simp] theorem addEvent_rxbuf : (s.addEvent e).rxbuf = s.rxbuf := rfl
@[simp] theorem addEvent_busy : (s.addEvent e).busy = s.busy := rfl
@[simp] theorem addEvent_done : (s.addEvent e).done = s.done := rfl
@[simp] theorem addEvent_linkUp : (s.addEvent e).linkUp = s.linkUp := rfl
@[simp] theorem addEvent_fw : (s.addEvent e).fw = s.fw := rfl
@[simp] theorem addEvent_env : (s.addEvent e).env = s.env := rfl
@[simp] theorem addEvent_events : (s.addEvent e).events = s.events ++ [e] := rfl
@[simp] theorem addEvent_inputs : (s.addEvent e).inputs = s.inputs := rfl
end

section
variable (s : State) (l : List HostInput)
@[simp] theorem setInputs_cfg : (s.setInputs l).cfg = s.cfg := rfl
@[simp] theorem setInputs_mem : (s.setInputs l).mem = s.mem := rfl
@[simp] theorem setInputs_cached : (s.setInputs l).cached = s.cached := rfl
@[simp] theorem setInputs_chanValid : (s.setInputs l).chanValid = s.chanValid := rfl
@[simp] theorem setInputs_chan : (s.setInputs l).chan = s.chan := rfl
@[simp] theorem setInputs_seqStep : (s.setInputs l).seqStep = s.seqStep := rfl
@[simp] theorem setInputs_timeout : (s.setInputs l).timeout = s.timeout := rfl
@[simp] theorem setInputs_opnd : (s.setInputs l).opnd = s.opnd := rfl
@[simp] theorem setInputs_res : (s.setInputs l).res = s.res := rfl
@[simp] theorem setInputs_outbuf : (s.setInputs l).outbuf = s.outbuf := rfl
@[simp] theorem setInputs_inbuf : (s.setInputs l).inbuf = s.inbuf := rfl
@[simp] theorem setInputs_txbuf : (s.setInputs l).txbuf = s.txbuf := rfl
@[simp] theorem setInputs_rxbuf : (s.setInputs l).rxbuf = s.rxbuf := rfl
@[simp] theorem setInputs_busy : (s.setInputs l).busy = s.busy := rfl
@[simp] theorem setInputs_done : (s.setInputs l).done = s.done := rfl
@[simp] theorem setInputs_linkUp : (s.setInputs l).linkUp = s.linkUp := rfl
@[simp] theorem setInputs_fw : (s.setInputs l).fw = s.fw := rfl
@[simp] theorem setInputs_env : (s.setInputs l).env = s.env := rfl
@[simp] theorem setInputs_events : (s.setInputs l).events = s.events := rfl
@[simp] theorem setInputs_inputs : (s.setInputs l).inputs = l := rfl
end

section
variable (s : State)
@[simp] theorem begin_cfg : (s.begin).cfg = s.cfg := rfl
@[simp] theorem begin_mem : (s.begin).mem = s.mem := rfl
@[simp] theorem begin_cached : (s.begin).cached = s.cached := rfl
@[simp] theorem begin_chanValid : (s.begin).chanValid = s.chanValid := rfl
@[simp] theorem begin_chan : (s.begin).chan = s.chan := rfl
@[simp] theorem begin_seqStep : (s.begin).seqStep = 0 := rfl
@[simp] theorem begin_timeout : (s.begin).timeout = s.timeout := rfl
@[simp] theorem begin_opnd : (s.begin).opnd = s.opnd := rfl
@[simp] theorem begin_res : (s.begin).res = { s.res with ack := 0, xfer := 0 } := rfl
@[simp] theorem begin_outbuf : (s.begin).outbuf = s.outbuf := rfl
@[simp] theorem begin_inbuf : (s.begin).inbuf = [] := rfl
@[simp] theorem begin_txbuf : (s.begin).txbuf = s.txbuf := rfl
@[simp] theorem begin_rxbuf : (s.begin).rxbuf = s.rxbuf := rfl
@[simp] theorem begin_busy : (s.begin).busy = true := rfl
@[simp] theorem begin_done : (s.begin).done = false := rfl
@[simp] theorem begin_linkUp : (s.begin).linkUp = s.linkUp := rfl
@[simp] theorem begin_fw : (s.begin).fw = s.fw := rfl
@[simp] theorem begin_env : (s.begin).env = s.env := rfl
@[simp] theorem begin_events : (s.begin).events = s.events := rfl
@[simp] theorem begin_inputs : (s.begin).inputs = s.inputs := rfl
end

section
variable (s : State) (r : Results) (bs : List Byte)
@[simp] theorem endOp_cfg : (s.endOp r bs).cfg = s.cfg := rfl
@[simp] theorem endOp_mem : (s.endOp r bs).mem = s.mem := rfl
@[simp] theorem endOp_cached : (s.endOp r bs).cached = s.cached := rfl
@[simp] theorem endOp_chanValid : (s.endOp r bs).chanValid = s.chanValid := rfl
@[simp] theorem endOp_chan : (s.endOp r bs).chan = s.chan := rfl
@[simp] theorem endOp_seqStep : (s.endOp r bs).seqStep = 0 := rfl
@[simp] theorem endOp_timeout : (s.endOp r bs).timeout = s.timeout := rfl
@[simp] theorem endOp_opnd : (s.endOp r bs).opnd = s.opnd := rfl
@[simp] theorem endOp_res : (s.endOp r bs).res = r := rfl
@[simp] theorem endOp_outbuf : (s.endOp r bs).outbuf = s.outbuf := rfl
@[simp] theorem endOp_inbuf : (s.endOp r bs).inbuf = bs := rfl
@[simp] theorem endOp_txbuf : (s.endOp r bs).txbuf = [] := rfl
@[simp] theorem endOp_rxbuf : (s.endOp r bs).rxbuf = [] := rfl
@[simp] theorem endOp_busy : (s.endOp r bs).busy = false := rfl
@[simp] theorem endOp_done : (s.endOp r bs).done = true := rfl
@[simp] theorem endOp_linkUp : (s.endOp r bs).linkUp = s.linkUp := rfl
@[simp] theorem endOp_fw : (s.endOp r bs).fw = s.fw := rfl
@[simp] theorem endOp_env : (s.endOp r bs).env = s.env := rfl
@[simp] theorem endOp_events : (s.endOp r bs).events = s.events := rfl
@[simp] theorem endOp_inputs : (s.endOp r bs).inputs = s.inputs := rfl
end

section
variable (s : State)
@[simp] theorem newSession_cfg : s.newSession.cfg = s.cfg := rfl
@[simp] theorem newSession_mem : s.newSession.mem = [] := rfl
@[simp] theorem newSession_cached : s.newSession.cached = false := rfl
@[simp] theorem newSession_chanValid : s.newSession.chanValid = false := rfl
@[simp] theorem newSession_chan : s.newSession.chan = 0 := rfl
@[simp] theorem newSession_seqStep : s.newSession.seqStep = 0 := rfl
@[simp] theorem newSession_timeout : s.newSession.timeout = 0 := rfl
@[simp] theorem newSession_res : s.newSession.res = {} := rfl
@[simp] theorem newSession_outbuf : s.newSession.outbuf = [] := rfl
@[simp] theorem newSession_inbuf : s.newSession.inbuf = [] := rfl
@[simp] theorem newSession_txbuf : s.newSession.txbuf = [] := rfl
@[simp] theorem newSession_rxbuf : s.newSession.rxbuf = [] := rfl
@[simp] theorem newSession_busy : s.newSession.busy = false := rfl
@[simp] theorem newSession_done : s.newSession.done = false := rfl
@[simp] theorem newSession_linkUp : s.newSession.linkUp = s.linkUp := rfl
@[simp] theorem newSession_fw : s.newSession.fw = s.fw := rfl
@[simp] theorem newSession_env : s.newSession.env = s.env := rfl
@[simp] theorem newSession_events : s.newSession.events = s.events := rfl
@[simp] theorem newSession_inputs : s.newSession.inputs = s.inputs := rfl
end

end Sys2Proof.Machine.State

namespace Sys2Proof.Machine.Env

variable (e : Env) (line : List Byte)
@[simp] theorem afterAbandon_accepts : e.afterAbandon.accepts = e.accepts := rfl
@[simp] theorem afterAbandon_line : e.afterAbandon.line = e.line := rfl
@[simp] theorem afterAbandon_arrivals : e.afterAbandon.arrivals = e.arrivals := rfl
@[simp] theorem afterAbandon_abandon : e.afterAbandon.abandon = e.abandon.tail := rfl
@[simp] theorem afterWrite_line : e.afterWrite.line = e.line := rfl
@[simp] theorem afterWrite_arrivals : e.afterWrite.arrivals = e.arrivals := rfl
@[simp] theorem afterWrite_abandon : e.afterWrite.abandon = countDown e.abandon := rfl
@[simp] theorem afterDrain_accepts (n : Nat) : (e.afterDrain n).accepts = e.accepts := rfl
@[simp] theorem afterDrain_arrivals (n : Nat) : (e.afterDrain n).arrivals = e.arrivals.tail := rfl
@[simp] theorem afterDrain_abandon (n : Nat) : (e.afterDrain n).abandon = e.abandon := rfl

/-- A drain of as many bytes as there are leaves the line empty (R343). -/
theorem afterDrain_all (n : Nat) (h : e.line.length + (e.arrivals.headD []).length ≤ n) :
    (e.afterDrain n).line = [] := by
  simpa [Env.afterDrain] using h

@[simp] theorem afterRead_accepts : (e.afterRead line).accepts = e.accepts := rfl
@[simp] theorem afterRead_line : (e.afterRead line).line = line := rfl
@[simp] theorem afterRead_abandon : (e.afterRead line).abandon = countDown e.abandon := rfl

end Sys2Proof.Machine.Env
end

