-- ==== Sys2Proof/Laws/Procedure.lean ====
section
/-! SUPPORT. What a procedure can do to the state. A relation that holds across every primitive update holds across every procedure, however it ends: `WireRel` for one transaction, `TransportRel` for a chunked transfer, `CacheRel` for the settings cache, `SequencerRel` for the sequencer. A frame or an invariant is one instance of them. -/

namespace Sys2Proof.Machine

/-! ## Sequencing -/

@[simp] theorem Ret.bind_ok {α β : Type} (a : α) (s : State) (f : α → State → Ret β) :
    (Ret.ok a s).bind f = f a s := rfl

@[simp] theorem Ret.bind_stop {α β : Type} (r : Stop) (s : State) (f : α → State → Ret β) :
    (Ret.stop r s : Ret α).bind f = .stop r s := rfl

@[simp] theorem Ret.state_ok {α : Type} (a : α) (s : State) : (Ret.ok a s).state = s := rfl
@[simp] theorem Ret.state_stop {α : Type} (r : Stop) (s : State) : (Ret.stop r s : Ret α).state = s := rfl
@[simp] theorem raise_state {α : Type} (e : Status) (s : State) : (raise e s : Ret α).state = s := rfl
@[simp] theorem raise_bind {α β : Type} (e : Status) (s : State) (f : α → State → Ret β) :
    (raise e s : Ret α).bind f = raise e s := rfl

@[simp] theorem ofExcept_state {α : Type} (x : Except Status α) (s : State) : (ofExcept x s).state = s := by
  cases x <;> rfl

/-- A procedure of two parts ends ok exactly when both parts do. -/
theorem Ret.bind_eq_ok {α β : Type} {r : Ret α} {f : α → State → Ret β} {b : β} {t : State} :
    r.bind f = .ok b t ↔ ∃ a s, r = .ok a s ∧ f a s = .ok b t := by
  cases r <;> simp [Ret.bind]

/-- A procedure of two parts stops where its first part does, or where its second does after the first ended ok. -/
theorem Ret.bind_eq_stop {α β : Type} {r : Ret α} {f : α → State → Ret β} {e : Stop} {t : State} :
    r.bind f = .stop e t ↔ r = .stop e t ∨ ∃ a s, r = .ok a s ∧ f a s = .stop e t := by
  cases r <;> simp [Ret.bind]

/-- A transitive relation across both parts holds across the whole. -/
theorem Ret.bind_rel {α β : Type} {R : State → State → Prop} (trans : ∀ a b c, R a b → R b c → R a c)
    {s : State} {r : Ret α} {f : α → State → Ret β} (h1 : R s r.state)
    (h2 : ∀ a t, r = .ok a t → R t (f a t).state) : R s (r.bind f).state := by
  cases r with
  | ok a t => exact trans _ _ _ h1 (h2 a t rfl)
  | stop e t => exact h1

/-! ## Relations kept by the transports -/

/-- `R` holds across every update one transaction makes. -/
structure WireRel (R : State → State → Prop) : Prop where
  refl  : ∀ s, R s s
  trans : ∀ a b c, R a b → R b c → R a c
  tx    : ∀ s bs, R s (s.setTx bs)
  rx    : ∀ s bs, R s (s.setRx bs)
  ack   : ∀ s a, R s (s.setAck a)
  write : ∀ s bs n, R s ((s.setEnv s.env.afterWrite).addEvent (.write s.seqStep bs n))
  read  : ∀ s line m bs, R s ((s.setEnv (s.env.afterRead line)).addEvent (.read s.seqStep m s.timeout bs))

namespace WireRel

variable {R : State → State → Prop} (h : WireRel R)
include h

theorem of_bind {α β : Type} {s : State} {r : Ret α} {f : α → State → Ret β} (h1 : R s r.state)
    (h2 : ∀ a t, r = .ok a t → R t (f a t).state) : R s (r.bind f).state := Ret.bind_rel h.trans h1 h2

theorem streamWrite (bs : List Byte) (s : State) : R s (streamWrite bs s).state := by
  unfold Machine.streamWrite
  split
  · exact h.refl s
  · exact h.write s bs _

theorem streamRead (max : Nat) (s : State) : R s (streamRead max s).state := by
  unfold Machine.streamRead
  split
  · exact h.refl s
  · exact h.read s _ max _

theorem e4wAck (b : Byte) (s : State) : R s (e4wAck b s).state := by
  unfold Machine.e4wAck
  split <;> exact h.ack s b

theorem e4wCheck (x y : List Byte) (s : State) : R s (e4wCheck x y s).state := by
  unfold Machine.e4wCheck
  split
  · exact h.refl s
  · exact h.of_bind (h.e4wAck _ s) fun _ t _ => h.refl t

theorem e4wReply (s : State) : R s (e4wReply s).state := by
  unfold Machine.e4wReply
  refine h.of_bind (h.streamRead 5 s) fun x t _ => ?_
  split
  · exact h.rx t x
  · refine h.trans _ _ _ (h.rx t x) (h.of_bind (h.streamRead _ _) fun y u _ => ?_)
    split
    · exact h.rx u _
    · exact h.trans _ _ _ (h.rx u _) (h.e4wCheck x y _)

theorem e4wPut (c : Byte) (a : Half) (out : List Byte) (s : State) : R s (e4wPut c a out s).state := by
  unfold Machine.e4wPut
  split
  · exact h.refl s
  split
  · exact h.refl s
  split
  · exact h.refl s
  refine h.trans _ _ _ (h.tx s _) (h.of_bind (h.streamWrite _ _) fun w t _ => ?_)
  split <;> exact h.refl t

theorem e4wSend (c : Byte) (a : Half) (out : List Byte) (s : State) : R s (e4wSend c a out s).state :=
  h.of_bind (h.e4wPut c a out s) fun _ t _ => h.e4wReply t

theorem deviceInit (c : Byte) (s : State) : R s (deviceInit c s).state := h.e4wSend _ _ _ s
theorem deviceWrite (a : Half) (bs : List Byte) (s : State) : R s (deviceWrite a bs s).state := h.e4wSend _ _ _ s
theorem bootloaderExit (s : State) : R s (bootloaderExit s).state := h.e4wSend _ _ _ s

theorem deviceRead (a : Half) (n : Nat) (s : State) : R s (deviceRead a n s).state := by
  unfold Machine.deviceRead
  refine h.of_bind (h.e4wSend _ _ _ s) fun p t _ => ?_
  split <;> exact h.refl t

theorem admitTransfer (a n : Nat) (s : State) : R s (admitTransfer a n s).state := by
  unfold Machine.admitTransfer
  split
  · exact h.refl s
  split
  · exact h.refl s
  split <;> exact h.refl s

theorem mspTransact (c : Half) (out : List Byte) (cap : Nat) (s : State) :
    R s (mspTransact c out cap s).state := by
  unfold Machine.mspTransact
  split
  · exact h.refl s
  split
  · exact h.refl s
  refine h.trans _ _ _ (h.tx s _) (h.of_bind (h.streamWrite _ _) fun w t _ => ?_)
  split
  · exact h.refl t
  · exact h.of_bind (h.streamRead _ t) fun rx u _ => by
      rw [ofExcept_state]; exact h.rx u rx

theorem lookup (i : Byte) (s : State) : R s (lookup i s).state := by
  unfold Machine.lookup
  split <;> exact h.refl s

theorem oneChunk (s : State) : R s (oneChunk s).state := by
  unfold Machine.oneChunk
  split
  · exact h.refl s
  split <;> exact h.refl s

theorem memRead (a n : Nat) (s : State) : R s (memRead a n s).state := by
  unfold Machine.memRead
  split <;> exact h.refl s

theorem throughCodec (tag : CodecTag) (s : State) : R s (throughCodec tag s).state := by
  unfold Machine.throughCodec
  refine h.of_bind (h.lookup _ s) fun e t _ => ?_
  split
  · exact h.refl t
  refine h.of_bind (by rw [ofExcept_state]; exact h.refl t) fun v u _ => ?_
  exact h.of_bind (by rw [ofExcept_state]; exact h.refl u) fun _ w _ => h.refl w

end WireRel

/-- `R` holds across every update a chunked transfer makes too. -/
structure TransportRel (R : State → State → Prop) : Prop extends WireRel R where
  xfer  : ∀ s x, R s (s.setXfer x)
  inbuf : ∀ s bs, R s (s.setInbuf bs)

namespace TransportRel

variable {R : State → State → Prop} (h : TransportRel R)
include h

theorem readChunks (addr len k i : Nat) (s : State) : R s (readChunks addr len k i s).state := by
  induction k generalizing i s with
  | zero => exact h.refl s
  | succ k ih =>
    exact h.of_bind (h.deviceRead _ _ s) fun p t _ =>
      h.trans _ _ _ (h.trans _ _ _ (h.inbuf t _) (h.xfer _ _)) (ih (i + 1) _)

theorem readFlash (addr len : Nat) (s : State) : R s (readFlash addr len s).state :=
  h.of_bind (h.admitTransfer _ _ s) fun _ t _ =>
    h.trans _ _ _ (h.trans _ _ _ (h.xfer t _) (h.inbuf _ _)) (h.readChunks _ _ _ _ _)

theorem writeChunks (addr : Nat) (buf : List Byte) (k i : Nat) (s : State) :
    R s (writeChunks addr buf k i s).state := by
  induction k generalizing i s with
  | zero => exact h.refl s
  | succ k ih =>
    exact h.of_bind (h.deviceWrite _ _ s) fun p t _ => h.trans _ _ _ (h.xfer t _) (ih (i + 1) _)

theorem writeFlash (addr : Nat) (buf : List Byte) (s : State) : R s (writeFlash addr buf s).state :=
  h.of_bind (h.admitTransfer _ _ s) fun _ t _ => h.trans _ _ _ (h.xfer t _) (h.writeChunks _ _ _ _ _)

end TransportRel

/-! ## Relations kept by the settings cache -/

/-- `R` holds across a write within the mirror and across setting `CACHED` too. -/
structure CacheRel (R : State → State → Prop) : Prop extends TransportRel R where
  mem    : ∀ s a bs, a + bs.length ≤ 256 → R s (s.setMem (writeBytes s.mem a bs))
  cached : ∀ s, R s s.setCached

namespace CacheRel

variable {R : State → State → Prop} (h : CacheRel R)
include h

theorem memWrite (a : Nat) (bs : List Byte) (s : State) : R s (memWrite a bs s).state := by
  unfold Machine.memWrite
  split
  · exact h.mem s a bs ‹_›
  · exact h.refl s

theorem fetch (s : State) : R s (fetch s).state :=
  h.of_bind (h.readFlash _ _ s) fun _ t _ =>
    h.of_bind (h.memWrite _ _ t) fun _ u _ => h.cached u

theorem fetchIfAbsent (s : State) : R s (fetchIfAbsent s).state := by
  unfold Machine.fetchIfAbsent
  split
  · exact h.refl s
  · exact h.fetch s

theorem getField (i : Byte) (s : State) : R s (getField i s).state :=
  h.of_bind (h.lookup i s) fun _ t _ => h.of_bind (h.fetchIfAbsent t) fun _ u _ =>
    h.of_bind (h.memRead _ _ u) fun _ v _ => h.refl v

theorem writeBack (s : State) : R s (writeBack s).state :=
  h.of_bind (h.memRead _ _ s) fun _ t _ => h.writeFlash _ _ t

theorem mutate (e : FieldEntry) (raw : List Byte) (s : State) : R s (mutate e raw s).state := h.memWrite _ _ s

theorem setField (e : FieldEntry) (v : Value) (s : State) : R s (setField e v s).state := by
  unfold Machine.setField
  refine h.of_bind (by rw [ofExcept_state]; exact h.refl s) fun raw t _ => ?_
  split
  · exact h.refl t
  split
  · exact h.refl t
  exact h.of_bind (h.fetchIfAbsent t) fun _ u _ =>
    h.of_bind (h.mutate _ _ u) fun _ v _ => h.writeBack v

theorem setOwnField (i : Byte) (v : Value) (s : State) : R s (setOwnField i v s).state :=
  h.of_bind (h.lookup i s) fun e t _ => h.setField e v t

theorem resetVersion (s : State) : R s (resetVersion s).state :=
  h.of_bind (h.lookup _ s) fun _ t _ => h.of_bind (h.lookup _ t) fun _ u _ =>
    h.of_bind (h.mutate _ _ u) fun _ v _ => h.of_bind (h.mutate _ _ v) fun _ w _ => h.writeBack w

end CacheRel

/-! ## Relations kept by the session operations and the sequencer -/

/-- `R` holds across every update of the channel registers too. -/
structure ChannelRel (R : State → State → Prop) : Prop extends TransportRel R where
  clear : ∀ s, R s s.clearChan
  chan  : ∀ s c, R s (s.setChan c)

namespace ChannelRel

variable {R : State → State → Prop} (h : ChannelRel R)
include h

theorem selectChannel (c : Byte) (s : State) : R s (selectChannel c s).state :=
  h.trans _ _ _ (h.clear s) (h.of_bind (h.deviceInit _ _) fun _ t _ => h.chan t c)

theorem exitSession (s : State) : R s (exitSession s).state :=
  h.trans _ _ _ (h.clear s) (h.of_bind (h.bootloaderExit _) fun _ t _ => h.refl t)

end ChannelRel

/-- `R` holds across every update a procedure makes. -/
structure SequencerRel (R : State → State → Prop) : Prop extends CacheRel R where
  clear : ∀ s, R s s.clearChan
  chan  : ∀ s c, R s (s.setChan c)
  step  : ∀ s k, R s (s.setSeqStep k)

namespace SequencerRel

variable {R : State → State → Prop} (h : SequencerRel R)
include h

theorem toChannelRel : ChannelRel R := { h.toTransportRel with clear := h.clear, chan := h.chan }

theorem stepDo (k : BitVec 4) (p : State → Ret Unit) (s : State) (hp : ∀ t, R t (p t).state) :
    R s (seqStepDo k p s).state := h.trans _ _ _ (h.step s k) (hp _)

theorem flashSteps (fw : List Byte) (s : State) : R s (flashSteps fw s).state :=
  h.of_bind (h.stepDo _ _ s fun t => h.toChannelRel.selectChannel _ t) fun _ s _ =>
  h.of_bind (h.stepDo _ _ s fun t => h.setOwnField _ _ t) fun _ s _ =>
  h.of_bind (h.stepDo _ _ s fun t => h.setOwnField _ _ t) fun _ s _ =>
  h.of_bind (h.stepDo _ _ s fun t => h.resetVersion t) fun _ s _ =>
  h.of_bind (h.stepDo _ _ s fun t => h.writeFlash _ _ t) fun _ s _ =>
  h.of_bind (h.stepDo _ _ s fun t => h.setOwnField _ _ t) fun _ s _ =>
  h.of_bind (h.stepDo _ _ s fun t => h.setOwnField _ _ t) fun _ s _ =>
  h.stepDo _ _ s fun t => h.toChannelRel.exitSession t

theorem fwBytes (s : State) : R s (fwBytes s).state := by
  unfold Machine.fwBytes
  split <;> exact h.refl s

theorem flashAll (s : State) : R s (flashAll s).state := by
  unfold Machine.flashAll
  split
  · exact h.refl s
  split
  · exact h.refl s
  exact h.of_bind (h.fwBytes s) fun fw t _ => h.flashSteps fw t

end SequencerRel

/-! ## What an operation can answer -/

/-- How an operation ends: with its own results, with the error entry, as a new session, or as a fault. -/
theorem runOp_cases {α : Type} (op : BitVec 4) (body : State → Ret α)
    (results : α → State → Results × List Byte) (s : State) :
    (∃ a t, body s.begin = .ok a t ∧
        runOp op body results s = .next (t.endOp (results a t).1 (results a t).2)) ∨
      (∃ e t, body s.begin = .stop (.raised e) t ∧ runOp op body results s = .next (raiseEntry op e t)) ∨
      (∃ t, body s.begin = .stop .abandoned t ∧ runOp op body results s = .next (t.setEnv t.env.afterAbandon).newSession) ∨
      ∃ f t, body s.begin = .stop (.broken f) t ∧ runOp op body results s = .fault f := by
  unfold runOp
  cases hb : body s.begin with
  | ok a t => exact .inl ⟨a, t, rfl, rfl⟩
  | stop r t =>
    cases r with
    | raised e => exact .inr (.inl ⟨e, t, rfl, rfl⟩)
    | abandoned => exact .inr (.inr (.inl ⟨t, rfl, rfl⟩))
    | broken f => exact .inr (.inr (.inr ⟨f, t, rfl, rfl⟩))

/-- The error entry changes the result registers, `INBUF`, `SEQ_STEP` and the handshake bits alone (R300). -/
theorem raiseEntry_frame (op : BitVec 4) (e : Status) (s : State) :
    ∃ r bs, raiseEntry op e s = s.endOp r bs := by
  unfold raiseEntry State.stepFailed
  split <;> exact ⟨_, _, rfl⟩

/-! ## An abandoned operation (R332) -/

@[simp] theorem State.undisturbed_env (s : State) : s.undisturbed.env = { s.env with abandon := [] } := rfl
@[simp] theorem State.undisturbed_events (s : State) : s.undisturbed.events = s.events := rfl

/-- What `State.newSession` leaves, for any state `t` an abandoned operation of `s` has come to. -/
theorem newSession_of_sameHost {s t : State} (h : SameHost s t) : NewSession s t.newSession :=
  ⟨rfl, rfl, rfl, rfl, rfl, rfl, h.1, h.2.2.2.2.1, h.2.2.2.2.2.1, h.2.2.2.2.2.2⟩

end Sys2Proof.Machine
end

