-- ==== Sys2Proof/Laws/Transaction.lean ====
section
/-! SUPPORT. One call of the stream and one ESC4Way transaction: what each answers, said once. `e4wSend_answered` is the case of a peer that acknowledges; what a transaction does under any answers stands in Laws/Outcome.lean and Laws/Frames.lean. -/

namespace Sys2Proof.Machine

/-! ## 16-bit fields and the length byte -/

theorem unbe16_be16 (v : Half) : unbe16 (be16 v) = v := by
  simp only [unbe16, be16, List.getD_cons_zero, List.getD_cons_succ, halfOf, highByte, lowByte]
  apply BitVec.eq_of_getLsbD_eq
  intro i hi
  rw [BitVec.getLsbD_append]
  by_cases h : i < 8
  · simp [h]
  · have h8 : i - 8 < 8 := by omega
    have e : 8 + (i - 8) = i := by omega
    simp [h, h8, e]

theorem unle16_le16 (v : Half) : unle16 (le16 v) = v := unbe16_be16 v

@[simp] theorem be16_length (v : Half) : (be16 v).length = 2 := rfl
@[simp] theorem le16_length (v : Half) : (le16 v).length = 2 := rfl

theorem lenDec_lenEnc (n : Nat) (h1 : 1 ≤ n) (h2 : n ≤ 256) : lenDec (lenEnc n) = n := by
  unfold lenDec lenEnc
  by_cases h : n = 256
  · subst h; rfl
  · have hn : (BitVec.ofNat 8 n).toNat = n := by simp; omega
    rw [if_neg, hn]
    intro h0
    rw [h0] at hn
    simp at hn
    omega

theorem lenDec_range (b : Byte) : 1 ≤ lenDec b ∧ lenDec b ≤ 256 := by
  unfold lenDec
  split
  · omega
  · have := b.isLt
    have h : b.toNat ≠ 0 := fun h0 => by apply ‹¬b = 0›; apply BitVec.eq_of_toNat_eq; simpa using h0
    omega

/-! ## Lengths of frames -/

@[simp] theorem e4wRequest_length (p : Params) (c : Byte) (a : Half) (out : List Byte) :
    (e4wRequest p c a out).length = 7 + out.length := by
  simp [e4wRequest, e4wHeader]; omega

@[simp] theorem mspRequest_length (p : Params) (c : Half) (out : List Byte) :
    (mspRequest p c out).length = 9 + out.length := by
  simp [mspRequest, mspHeader]; omega

@[simp] theorem Reply.head_length (r : Reply) : r.head.length = 5 := rfl

@[simp] theorem Reply.tail_length (r : Reply) (a : Byte) : (r.tail a).length = r.payload.length + 3 := by
  simp [Reply.tail]

theorem Reply.head_declared (r : Reply) (h : r.wf) : e4wDeclared r.head = r.payload.length := by
  have : r.head.getD 4 0 = lenEnc r.payload.length := rfl
  rw [e4wDeclared, this, lenDec_lenEnc _ h.1 h.2]

/-! ## The stream port -/

/-- An environment in which the host does not reset the core during an operation. -/
theorem Env.abandonsNow_of_nil {e : Env} (h : e.abandon = []) : e.abandonsNow = false := by
  simp [Env.abandonsNow, h]

theorem Env.afterWrite_of_nil {e : Env} (h : e.abandon = []) : e.afterWrite = { e with accepts := e.accepts.tail } := by
  simp [Env.afterWrite, h, countDown]

theorem Env.afterRead_of_nil {e : Env} (h : e.abandon = []) (line : List Byte) :
    e.afterRead line = { e with line := line, arrivals := e.arrivals.tail } := by
  simp [Env.afterRead, h, countDown]

/-- A write the environment takes whole. -/
theorem streamWrite_taken {bs : List Byte} {s : State} {n : Nat} {ns : List Nat}
    (h0 : s.env.abandon = []) (h1 : s.env.accepts = n :: ns) (h2 : bs.length ≤ n) :
    streamWrite bs s = .ok bs.length
      ((s.setEnv { s.env with accepts := ns }).addEvent (.write s.seqStep bs bs.length)) := by
  simp [streamWrite, State.nextAccept, Env.abandonsNow_of_nil h0, Env.afterWrite_of_nil h0, h1, Nat.min_eq_right h2]

/-- A write of which the environment takes `n` bytes. -/
theorem streamWrite_short {bs : List Byte} {s : State} {n : Nat} {ns : List Nat}
    (h0 : s.env.abandon = []) (h1 : s.env.accepts = n :: ns) :
    streamWrite bs s = .ok (min n bs.length)
      ((s.setEnv { s.env with accepts := ns }).addEvent (.write s.seqStep bs (min n bs.length))) := by
  simp [streamWrite, State.nextAccept, Env.abandonsNow_of_nil h0, Env.afterWrite_of_nil h0, h1]

/-- A read that finds exactly the bytes that arrive, none of them beyond its bound. -/
theorem streamRead_arrival {max : Nat} {s : State} {x : List Byte} {xs : List (List Byte)}
    (h0 : s.env.abandon = []) (h1 : s.env.line = []) (h2 : s.env.arrivals = x :: xs) (h3 : x.length ≤ max) :
    streamRead max s = .ok x
      ((s.setEnv { s.env with arrivals := xs }).addEvent (.read s.seqStep max s.timeout x)) := by
  have e1 : s.nextLine = x := by simp [State.nextLine, h1, h2]
  simp [streamRead, Env.abandonsNow_of_nil h0, Env.afterRead_of_nil h0, e1, h1, h2, List.take_of_length_le h3, List.drop_of_length_le h3]

/-! ## One transaction -/

/-- Lines 14 to 17 of R180 on a reply with a good checksum. -/
theorem e4wCheck_reply (r : Reply) (a : Byte) (h : r.wf) (s : State) :
    e4wCheck r.head (r.tail a) s =
      if a = 0 then .ok r.payload (s.setAck 0) else raise .commandError (s.setAck a) := by
  have hd := r.head_declared h
  have e1 : (r.tail a).take (r.payload.length + 1) = r.payload ++ [a] := by
    rw [Reply.tail, List.take_append_of_le_length (by simp), List.take_of_length_le (by simp)]
  have e2 : (r.tail a).drop (r.payload.length + 1) = be16 (crc16xOf (r.head ++ r.payload ++ [a]) 0) := by
    rw [Reply.tail, List.drop_append_of_le_length (by simp), List.drop_of_length_le (by simp), List.nil_append]
  have e3 : (r.tail a).getD r.payload.length 0 = a := by
    simp [Reply.tail, List.getD_eq_getElem?_getD]
  have e4 : (r.tail a).take r.payload.length = r.payload := by
    simp [Reply.tail, List.append_assoc]
  rw [e4wCheck, hd, e1, e2, e3, e4, unbe16_be16, ← List.append_assoc, if_neg (by simp)]
  unfold e4wAck ackError
  by_cases ha : a = 0
  · rw [if_pos ha, if_pos ha, ha]; rfl
  · rw [if_neg ha, if_neg ha]; rfl

/-- The reply a peer gives in two reads (R103) is taken whole. -/
theorem e4wReply_arrivals {s : State} {r : Reply} {a : Byte} {xs : List (List Byte)} (h : r.wf)
    (h0 : s.env.abandon = []) (h1 : s.env.line = []) (h2 : s.env.arrivals = r.head :: r.tail a :: xs) :
    e4wReply s =
      e4wCheck r.head (r.tail a)
        ((((((s.setEnv { s.env with arrivals := r.tail a :: xs }).addEvent
            (.read s.seqStep 5 s.timeout r.head)).setRx r.head).setEnv { s.env with arrivals := xs }).addEvent
            (.read s.seqStep (r.payload.length + 3) s.timeout (r.tail a))).setRx (r.head ++ r.tail a)) := by
  rw [e4wReply, streamRead_arrival h0 h1 h2 (by simp), Ret.bind_ok, if_neg (by simp), r.head_declared h,
    streamRead_arrival (x := r.tail a) (xs := xs) (by simpa using h0) (by simpa using h1) (by simp)
      (by simp), Ret.bind_ok, if_neg (by simp)]
  rfl

/-- A request the environment takes whole (lines 1 to 8 of R180). -/
theorem e4wPut_taken {s : State} {cmd : Byte} {addr : Half} {out : List Byte} {n : Nat} {ns : List Nat}
    (hl : s.linkUp = true) (ho1 : 1 ≤ out.length) (ho2 : out.length ≤ 256) (h0 : s.env.abandon = [])
    (h2 : s.env.accepts = n :: ns) (hn : 263 ≤ n) :
    e4wPut cmd addr out s = .ok ()
      (((s.setTx (e4wRequest s.cfg.params cmd addr out)).setEnv { s.env with accepts := ns }).addEvent
        (.write s.seqStep (e4wRequest s.cfg.params cmd addr out) (e4wRequest s.cfg.params cmd addr out).length)) := by
  rw [e4wPut, if_neg (by simp [hl]), if_neg (by omega), if_neg (by omega),
    streamWrite_taken (n := n) (ns := ns) (by simpa using h0) (by simpa using h2) (by simp; omega),
    Ret.bind_ok, if_neg (by simp)]
  rfl

/-- The whole transaction, with the acknowledgement the peer gives (R180, R185). -/
theorem e4wSend_reply {s : State} {cmd : Byte} {addr : Half} {out : List Byte} {r : Reply} {a : Byte}
    {n : Nat} {ns : List Nat} {xs : List (List Byte)} (hl : s.linkUp = true) (ho1 : 1 ≤ out.length)
    (ho2 : out.length ≤ 256) (h : r.wf) (h0 : s.env.abandon = []) (h1 : s.env.line = [])
    (h2 : s.env.accepts = n :: ns) (hn : 263 ≤ n) (h3 : s.env.arrivals = r.head :: r.tail a :: xs) :
    e4wSend cmd addr out s =
      if a = 0 then .ok r.payload (s.afterTransaction cmd addr out r)
      else raise .commandError
        { s with
            txbuf := e4wRequest s.cfg.params cmd addr out
            rxbuf := r.head ++ r.tail a
            res := { s.res with ack := a }
            env := s.env.afterAnswers 1
            events := s.events ++
              [.write s.seqStep (e4wRequest s.cfg.params cmd addr out) (e4wRequest s.cfg.params cmd addr out).length,
               .read s.seqStep 5 s.timeout r.head,
               .read s.seqStep (r.payload.length + 3) s.timeout (r.tail a)] } := by
  rw [e4wSend, e4wPut_taken hl ho1 ho2 h0 h2 hn, Ret.bind_ok]
  rw [e4wReply_arrivals (r := r) (a := a) (xs := xs) h (by simpa using h0) (by simpa using h1) (by simpa using h3),
    e4wCheck_reply r a h]
  have hd1 : s.env.accepts.drop 1 = ns := by simp [h2]
  have hd2 : s.env.arrivals.drop 2 = xs := by simp [h3]
  by_cases ha : a = 0
  · subst ha
    simp [State.afterTransaction, transactionEvents, State.setAck, State.setRx, State.setTx, State.addEvent,
      State.setEnv, Env.afterAnswers, hd1, hd2]
  · rw [if_neg ha, if_neg ha]
    simp [State.setAck, State.setRx, State.setTx, State.addEvent, State.setEnv, Env.afterAnswers, hd1, hd2]

/-- What `Env.answers` says of the first of several transactions. -/
theorem Env.answers_cons {e : Env} {r : Reply} {rs : List Reply} (h : e.answers (r :: rs)) :
    ∃ n ns xs, e.accepts = n :: ns ∧ 263 ≤ n ∧ e.arrivals = r.head :: r.tail 0 :: xs ∧ r.wf ∧
      e.abandon = [] ∧ e.line = [] ∧ (e.afterAnswers 1).answers rs := by
  obtain ⟨h0, h1, hw, hl, ha, hp⟩ := h
  obtain ⟨n, ns, hns⟩ : ∃ n ns, e.accepts = n :: ns := by
    cases hx : e.accepts with
    | nil => rw [hx] at hl; simp at hl
    | cons n ns => exact ⟨n, ns, rfl⟩
  obtain ⟨y, hy⟩ := hp
  have hr : e.arrivals = r.head :: r.tail 0 :: (rs.flatMap Reply.reads ++ y) := by
    rw [← hy]; simp [Reply.reads]
  refine ⟨n, ns, _, hns, ha n (by simp [hns]), hr, hw r (by simp), h0, h1, h0, h1,
    fun q hq => hw q (by simp [hq]), ?_, ?_, ?_⟩
  · rw [hns] at hl; simpa [Env.afterAnswers, hns] using hl
  · intro m hm
    refine ha m ?_
    rw [hns]
    simp only [Env.afterAnswers, hns, List.drop_one, List.tail_cons] at hm
    simpa using Or.inr hm
  · exact ⟨y, by simp [Env.afterAnswers, hr]⟩

/-- A transaction with a peer that acknowledges it. -/
theorem e4wSend_answered {s : State} {cmd : Byte} {addr : Half} {out : List Byte} {r : Reply} {rs : List Reply}
    (hl : s.linkUp = true) (ho1 : 1 ≤ out.length) (ho2 : out.length ≤ 256) (h : s.env.answers (r :: rs)) :
    e4wSend cmd addr out s = .ok r.payload (s.afterTransaction cmd addr out r) ∧
      (s.afterTransaction cmd addr out r).env.answers rs := by
  obtain ⟨n, ns, xs, h2, hn, h3, hw, h0, h1, hrest⟩ := Env.answers_cons h
  exact ⟨by rw [e4wSend_reply hl ho1 ho2 hw h0 h1 h2 hn h3, if_pos rfl], hrest⟩

end Sys2Proof.Machine
end

