-- ==== Sys2Proof/Laws/Outcome.lean ====
section
/-! SUPPORT. How a procedure can stop: the errors each raises, and that no rule reaches a mirror byte that does not exist. -/

namespace Sys2Proof.Machine

/-! ## Entries of the field table -/

theorem Params.find_mem {p : Params} {i : Byte} {e : FieldEntry} (h : p.find i = some e) : e ∈ p.fieldTable :=
  List.mem_of_find?_eq_some h

/-- Every entry found keeps R111. -/
theorem find_wf {c : Config} {i : Byte} {e : FieldEntry} (h : c.params.find i = some e) : e.wf = true := by
  have hw := c.ok
  simp only [Params.wf, Bool.and_eq_true, List.all_eq_true] at hw
  exact hw.1.1.1.1.1.2 e (Params.find_mem h)

theorem find_range {c : Config} {i : Byte} {e : FieldEntry} (h : c.params.find i = some e) :
    1 ≤ e.width ∧ e.offset + e.width ≤ 174 := by
  have := find_wf h
  simp only [FieldEntry.wf, Bool.and_eq_true, decide_eq_true_eq] at this
  exact this.1

/-- The settings region fits the address space (R8). -/
theorem settings_fit (c : Config) : c.params.settingsBase.toNat + 256 ≤ 65536 := by
  have hw := c.ok
  simp only [Params.wf, Bool.and_eq_true, decide_eq_true_eq] at hw
  exact hw.1.1.1.1.1.1.2

/-- The least MSP frame fits the buffer (R8). -/
theorem msp_min_frame (c : Config) : 9 ≤ c.params.mspMaxFrame := by
  have hw := c.ok
  simp only [Params.wf, Bool.and_eq_true, decide_eq_true_eq] at hw
  exact hw.1.1.1.1.1.1.1

theorem has_find {p : Params} {i : Byte} {w : Nat} {c : Codec} (h : p.has i w c = true) :
    ∃ e, p.find i = some e ∧ e.width = w ∧ e.codec = c := by
  unfold Params.has at h
  split at h
  · cases h
  · rename_i e he
    simp only [Bool.and_eq_true, decide_eq_true_eq] at h
    exact ⟨e, he, h.1, h.2⟩

/-- The four fields of R222 are in the table. -/
theorem own_fields_present (c : Config) :
    (∃ e, c.params.find c.params.fMarker = some e ∧ e.width = 1 ∧ e.codec = .raw) ∧
    (∃ e, c.params.find c.params.fVerMajor = some e ∧ e.width = 1 ∧ e.codec = .raw) ∧
    (∃ e, c.params.find c.params.fVerMinor = some e ∧ e.width = 1 ∧ e.codec = .raw) ∧
    (∃ e, c.params.find c.params.fName = some e ∧ e.width = 12 ∧ e.codec = .string) := by
  have hw := c.ok
  simp only [Params.wf, Bool.and_eq_true] at hw
  exact ⟨has_find hw.1.1.1.2, has_find hw.1.1.2, has_find hw.1.2, has_find hw.2⟩

/-! ## Encoded values have the field's width -/

@[simp] theorem rawBytes_length (w r : Nat) : (rawBytes w r).length = w := by
  induction w generalizing r with
  | zero => rfl
  | succ w ih => simp [rawBytes, ih]

theorem encodeValue_length {pad : Byte} {w : Nat} {c : Codec} {v : Value} {raw : List Byte}
    (h : encodeValue pad w c v = .ok raw) : raw.length = w := by
  unfold encodeValue at h
  split at h
  · unfold encodeRaw at h; split at h <;> cases h; simp
  · unfold encodeRaw at h; split at h <;> cases h; simp
  · cases h; simp
  · unfold encodeScaled at h
    split at h
    · cases h
    split at h
    · cases h
    cases h; simp
  · unfold encodeString at h
    split at h
    · cases h; simp; omega
    · cases h
  · cases h

theorem encodeValue_error {pad : Byte} {w : Nat} {c : Codec} {v : Value} {e : Status}
    (h : encodeValue pad w c v = .error e) : e = .badValueKind ∨ e = .valueUnrepresentable := by
  unfold encodeValue at h
  split at h
  · unfold encodeRaw at h; split at h <;> cases h; simp
  · unfold encodeRaw at h; split at h <;> cases h; simp
  · cases h
  · unfold encodeScaled at h
    split at h
    · cases h; simp
    split at h <;> cases h
    simp
  · unfold encodeString at h
    split at h <;> cases h
    simp
  · cases h; simp

theorem portValue_error {s : State} {e : Status} (h : s.portValue = .error e) : e = .badValueKind := by
  unfold State.portValue at h
  split at h <;> cases h
  rfl

/-! ## How a procedure stops -/

/-- If `r` stops, it stops for a reason in `P`. -/
def Ret.StopsIn {α : Type} (P : Stop → Prop) (r : Ret α) : Prop := ∀ e t, r = .stop e t → P e

namespace Ret.StopsIn

variable {α β : Type} {P Q : Stop → Prop}

theorem ok (a : α) (s : State) : StopsIn P (Ret.ok a s) := by intro e t h; cases h
theorem stop {e : Stop} (h : P e) (s : State) : StopsIn P (Ret.stop e s : Ret α) := by
  intro e' t he; cases he; exact h
theorem raise {e : Status} (h : P (.raised e)) (s : State) : StopsIn P (Machine.raise e s : Ret α) := stop h s
theorem mono {r : Ret α} (h : StopsIn P r) (hpq : ∀ e, P e → Q e) : StopsIn Q r := fun e t he => hpq e (h e t he)

theorem bind {r : Ret α} {f : α → State → Ret β} (h1 : StopsIn P r)
    (h2 : ∀ a t, r = .ok a t → StopsIn P (f a t)) : StopsIn P (r.bind f) := by
  intro e t h
  rcases Ret.bind_eq_stop.1 h with h | ⟨a, u, ha, h⟩
  · exact h1 e t h
  · exact h2 a u ha e t h

theorem ofExcept {x : Except Status α} {s : State} (h : ∀ e, x = .error e → P (.raised e)) :
    StopsIn P (Machine.ofExcept x s) := by
  cases x with
  | ok a => exact ok a s
  | error e => exact raise (h e rfl) s

end Ret.StopsIn

open Ret

/-- The host abandoned the operation, or one of these errors was raised. -/
def raisedIn (l : List Status) : Stop → Prop
  | .raised e => e ∈ l
  | .abandoned => True
  | .broken _ => False

/-- The errors of a transaction after its admission (R298). -/
def wireErrors : List Status := [.shortWrite, .shortRead, .crcMismatch, .commandError]

theorem streamWrite_stops (bs : List Byte) (s : State) (l : List Status) : StopsIn (raisedIn l) (streamWrite bs s) := by
  unfold streamWrite
  split
  · exact StopsIn.stop trivial s
  · exact StopsIn.ok _ _

theorem streamRead_stops (n : Nat) (s : State) (l : List Status) : StopsIn (raisedIn l) (streamRead n s) := by
  unfold streamRead
  split
  · exact StopsIn.stop trivial s
  · exact StopsIn.ok _ _

theorem ackError_eq {b : Byte} {e : Status} (h : ackError b = some e) : e = .commandError := by
  unfold ackError at h
  split at h <;> cases h
  rfl

theorem e4wAck_stops (b : Byte) (s : State) : StopsIn (raisedIn [.commandError]) (e4wAck b s) := by
  unfold e4wAck
  split
  · exact StopsIn.ok _ _
  · rename_i e he
    exact StopsIn.raise (by simp [raisedIn, ackError_eq he]) _

theorem e4wCheck_stops (h b : List Byte) (s : State) : StopsIn (raisedIn wireErrors) (e4wCheck h b s) := by
  unfold e4wCheck
  split
  · exact StopsIn.raise (by simp [raisedIn, wireErrors]) _
  · refine StopsIn.bind ((e4wAck_stops _ s).mono ?_) fun _ t _ => StopsIn.ok _ _
    intro e he
    cases e <;> simp_all [raisedIn, wireErrors]

theorem e4wReply_stops (s : State) : StopsIn (raisedIn wireErrors) (e4wReply s) := by
  unfold e4wReply
  refine StopsIn.bind (streamRead_stops _ _ _) fun h t _ => ?_
  split
  · exact StopsIn.raise (by simp [raisedIn, wireErrors]) _
  · refine StopsIn.bind (streamRead_stops _ _ _) fun b u _ => ?_
    split
    · exact StopsIn.raise (by simp [raisedIn, wireErrors]) _
    · exact e4wCheck_stops _ _ _

/-- The errors of a request with a legal payload on an attached stream. -/
theorem e4wPut_stops_admitted {c : Byte} {a : Half} {out : List Byte} {s : State} (hl : s.linkUp = true)
    (h1 : 1 ≤ out.length) (h2 : out.length ≤ 256) : StopsIn (raisedIn wireErrors) (e4wPut c a out s) := by
  unfold e4wPut
  rw [if_neg (by simp [hl]), if_neg (by omega), if_neg (by omega)]
  refine StopsIn.bind (streamWrite_stops _ _ _) fun w t _ => ?_
  split
  · exact StopsIn.raise (by simp [raisedIn, wireErrors]) _
  · exact StopsIn.ok _ _

/-- The errors of a request (lines 1 to 8 of R180). -/
theorem e4wPut_stops (c : Byte) (a : Half) (out : List Byte) (s : State) :
    StopsIn (raisedIn (.notConnected :: .payloadEmpty :: .payloadTooLong :: wireErrors)) (e4wPut c a out s) := by
  by_cases hl : s.linkUp = false
  · rw [e4wPut, if_pos hl]; exact StopsIn.raise (by simp [raisedIn]) _
  by_cases h1 : out.length = 0
  · rw [e4wPut, if_neg hl, if_pos h1]; exact StopsIn.raise (by simp [raisedIn]) _
  by_cases h2 : 256 < out.length
  · rw [e4wPut, if_neg hl, if_neg h1, if_pos h2]; exact StopsIn.raise (by simp [raisedIn]) _
  refine (e4wPut_stops_admitted (by simpa using hl) (by omega) (by omega)).mono ?_
  intro e he
  cases e <;> simp_all [raisedIn]

/-- The errors of one transaction (R180, R298). -/
theorem e4wSend_stops (c : Byte) (a : Half) (out : List Byte) (s : State) :
    StopsIn (raisedIn (.notConnected :: .payloadEmpty :: .payloadTooLong :: wireErrors)) (e4wSend c a out s) := by
  refine StopsIn.bind (e4wPut_stops c a out s) fun _ t _ => (e4wReply_stops t).mono ?_
  intro e he
  cases e <;> simp_all [raisedIn]

/-- The errors of a transaction with a legal payload on an attached stream. -/
theorem e4wSend_stops_admitted {c : Byte} {a : Half} {out : List Byte} {s : State} (hl : s.linkUp = true)
    (h1 : 1 ≤ out.length) (h2 : out.length ≤ 256) : StopsIn (raisedIn wireErrors) (e4wSend c a out s) := by
  exact StopsIn.bind (e4wPut_stops_admitted hl h1 h2) fun _ t _ => e4wReply_stops t

/-- `LINK_UP` and the parameters are not written by the transports. -/
theorem portsRel : SequencerRel (fun s t => t.linkUp = s.linkUp ∧ t.cfg = s.cfg) := by
  constructor
  · constructor
    · constructor
      · constructor <;> intros <;> simp_all
      all_goals intros; simp_all
    · intros; simp_all
    · intros; simp_all
  all_goals intros; simp_all

/-- A device-read answers exactly the bytes asked for (R192). -/
theorem deviceRead_ok {a : Half} {n : Nat} {s t : State} {p : List Byte} (h : deviceRead a n s = .ok p t) :
    p.length = n := by
  obtain ⟨q, u, -, h⟩ := Ret.bind_eq_ok.1 h
  split at h
  · cases h
  · cases h; omega

theorem deviceRead_stops {a : Half} {n : Nat} {s : State} (hl : s.linkUp = true) :
    StopsIn (raisedIn (.lengthMismatch :: wireErrors)) (deviceRead a n s) := by
  unfold deviceRead
  refine StopsIn.bind ((e4wSend_stops_admitted hl (by simp) (by simp)).mono ?_) fun p t _ => ?_
  · intro e he; cases e <;> simp_all [raisedIn]
  · split
    · exact StopsIn.raise (by simp [raisedIn]) _
    · exact StopsIn.ok _ _

theorem admitTransfer_stops (a n : Nat) (s : State) :
    StopsIn (raisedIn [.notConnected, .noChannel, .addressRange]) (admitTransfer a n s) := by
  unfold admitTransfer
  split
  · exact StopsIn.raise (by simp [raisedIn]) _
  split
  · exact StopsIn.raise (by simp [raisedIn]) _
  split
  · exact StopsIn.raise (by simp [raisedIn]) _
  · exact StopsIn.ok _ _

/-- Admission changes nothing and says all three conditions hold (R204, R69). -/
theorem admitTransfer_ok {a n : Nat} {s t : State} (h : admitTransfer a n s = .ok () t) :
    t = s ∧ s.linkUp = true ∧ s.chanValid = true ∧ a + n ≤ 65536 := by
  unfold admitTransfer at h
  split at h
  · cases h
  split at h
  · cases h
  split at h
  · cases h
  · cases h
    simp_all

theorem admitTransfer_of {a n : Nat} {s : State} (h1 : s.linkUp = true) (h2 : s.chanValid = true)
    (h3 : a + n ≤ 65536) : admitTransfer a n s = .ok () s := by
  unfold admitTransfer
  rw [if_neg (by simp [h1]), if_neg (by simp [h2]), if_neg (by omega)]

theorem readChunks_stops (addr len k i : Nat) (s : State) (hl : s.linkUp = true) :
    StopsIn (raisedIn (.lengthMismatch :: wireErrors)) (readChunks addr len k i s) := by
  induction k generalizing i s with
  | zero => exact StopsIn.ok _ _
  | succ k ih =>
    refine StopsIn.bind (deviceRead_stops hl) fun p t ht => ih _ _ ?_
    have := (portsRel.deviceRead (chunkAddr addr i) (chunkLen len i) s).1
    rw [ht] at this
    exact this.trans hl

/-- The errors of `ReadFlash` (R190, R298). -/
theorem readFlash_stops (addr len : Nat) (s : State) :
    StopsIn (raisedIn (.notConnected :: .noChannel :: .addressRange :: .lengthMismatch :: wireErrors))
      (readFlash addr len s) := by
  unfold readFlash
  refine StopsIn.bind ((admitTransfer_stops _ _ _).mono ?_) fun _ t ht => (readChunks_stops _ _ _ _ _ ?_).mono ?_
  · intro e he; cases e <;> simp_all [raisedIn]; tauto
  · obtain ⟨rfl, h, -⟩ := admitTransfer_ok ht; simpa using h
  · intro e he; cases e <;> simp_all [raisedIn]

theorem chunkBytes_length (buf : List Byte) (i : Nat) : (chunkBytes buf i).length = chunkLen buf.length i := by
  simp [chunkBytes, chunkLen]

theorem chunkLen_pos {len i : Nat} (h : i < chunkCount len) : 1 ≤ chunkLen len i ∧ chunkLen len i ≤ 256 := by
  unfold chunkCount at h
  unfold chunkLen
  omega

theorem writeChunks_stops (addr : Nat) (buf : List Byte) (k i : Nat) (s : State) (hl : s.linkUp = true)
    (hk : i + k ≤ chunkCount buf.length) : StopsIn (raisedIn wireErrors) (writeChunks addr buf k i s) := by
  induction k generalizing i s with
  | zero => exact StopsIn.ok _ _
  | succ k ih =>
    have hc := chunkLen_pos (len := buf.length) (i := i) (by omega)
    refine StopsIn.bind (e4wSend_stops_admitted hl ?_ ?_) fun p t ht => ih _ _ ?_ (by omega)
    · rw [chunkBytes_length]; exact hc.1
    · rw [chunkBytes_length]; exact hc.2
    · have h1 := (portsRel.deviceWrite (chunkAddr addr i) (chunkBytes buf i) s).1
      rw [ht] at h1
      exact Eq.trans h1 hl

/-- The errors of `WriteFlash` (R194, R298). -/
theorem writeFlash_stops (addr : Nat) (buf : List Byte) (s : State) :
    StopsIn (raisedIn (.notConnected :: .noChannel :: .addressRange :: wireErrors)) (writeFlash addr buf s) := by
  unfold writeFlash
  refine StopsIn.bind ((admitTransfer_stops _ _ _).mono ?_)
    fun _ t ht => (writeChunks_stops _ _ _ _ _ ?_ (by omega)).mono ?_
  · intro e he; cases e <;> simp_all [raisedIn]; tauto
  · obtain ⟨rfl, h, -⟩ := admitTransfer_ok ht; simpa using h
  · intro e he; cases e <;> simp_all [raisedIn]

/-! ## Bytes gathered by a read -/

/-- One transaction leaves `INBUF`, `R_XFER`, `SEQ_STEP`, the channel and the cache alone (R341). -/
theorem transactionRel : WireRel (fun s t => t.inbuf = s.inbuf ∧ t.res.xfer = s.res.xfer ∧ t.seqStep = s.seqStep ∧
    t.chanValid = s.chanValid ∧ t.chan = s.chan ∧ t.mem = s.mem ∧ t.cached = s.cached) := by
  constructor <;> intros <;> simp_all

theorem readChunks_ok_length {addr len k i : Nat} {s t : State} (h : readChunks addr len k i s = .ok () t) :
    t.inbuf.length = s.inbuf.length + ((List.range k).map fun j => chunkLen len (i + j)).sum := by
  induction k generalizing i s with
  | zero => cases h; simp
  | succ k ih =>
    obtain ⟨p, u, h1, h2⟩ := Ret.bind_eq_ok.1 h
    have e1 := (transactionRel.deviceRead (chunkAddr addr i) (chunkLen len i) s).1
    rw [h1] at e1
    have e2 : u.inbuf = s.inbuf := e1
    rw [ih h2, List.range_succ_eq_map]
    simp [State.tookChunk, e2, deviceRead_ok h1, Function.comp_def]
    simp only [Nat.add_assoc, Nat.add_comm 1]

/-- The chunks of a transfer add up to its length (R68). -/
theorem chunkLen_sum (len : Nat) :
    ((List.range (chunkCount len)).map fun i => chunkLen len i).sum = len := by
  have key : ∀ k, k ≤ chunkCount len →
      ((List.range k).map fun i => chunkLen len i).sum = min len (256 * k) := by
    intro k
    induction k with
    | zero => simp
    | succ k ih =>
      intro hk
      rw [List.range_succ, List.map_append, List.sum_append, ih (by omega)]
      simp only [List.map_cons, List.map_nil, List.sum_cons, List.sum_nil, chunkLen]
      omega
  rw [key _ (le_refl _)]
  unfold chunkCount
  omega

/-- A read that ends `OK` hands back exactly the bytes asked for (R190). -/
theorem readFlash_ok_length {addr len : Nat} {s t : State} (h : readFlash addr len s = .ok () t) :
    t.inbuf.length = len := by
  obtain ⟨_, u, h1, h2⟩ := Ret.bind_eq_ok.1 h
  rw [readChunks_ok_length h2]
  simp [chunkLen_sum]

/-! ## The cache and the sequencer -/

/-- The errors of everything below `FLASH_ALL`. -/
def cacheErrors : List Status :=
  .notConnected :: .noChannel :: .addressRange :: .lengthMismatch :: .unknownField :: .badValueKind ::
    .valueUnrepresentable :: .payloadEmpty :: .payloadTooLong :: wireErrors

theorem fetch_stops (s : State) :
    StopsIn (raisedIn (.notConnected :: .noChannel :: .addressRange :: .lengthMismatch :: wireErrors)) (fetch s) := by
  unfold fetch
  refine StopsIn.bind (readFlash_stops _ _ _) fun _ t ht => ?_
  have hlen := readFlash_ok_length ht
  unfold memWrite
  rw [if_pos (by omega)]
  exact StopsIn.ok _ _

theorem fetchIfAbsent_stops (s : State) :
    StopsIn (raisedIn (.notConnected :: .noChannel :: .addressRange :: .lengthMismatch :: wireErrors))
      (fetchIfAbsent s) := by
  unfold fetchIfAbsent
  split
  · exact StopsIn.ok _ _
  · exact fetch_stops s

theorem lookup_ok {i : Byte} {s t : State} {e : FieldEntry} (h : lookup i s = .ok e t) :
    t = s ∧ s.cfg.params.find i = some e := by
  unfold lookup at h
  split at h <;> cases h
  exact ⟨rfl, ‹_›⟩

theorem lookup_of {i : Byte} {s : State} {e : FieldEntry} (h : s.cfg.params.find i = some e) :
    lookup i s = .ok e s := by
  unfold lookup
  rw [h]

theorem lookup_stops (i : Byte) (s : State) : StopsIn (raisedIn [.unknownField]) (lookup i s) := by
  unfold lookup
  split
  · exact StopsIn.raise (by simp [raisedIn]) _
  · exact StopsIn.ok _ _

theorem raisedIn_mono {l m : List Status} (h : ∀ e ∈ l, e ∈ m) (r : Stop) : raisedIn l r → raisedIn m r := by
  cases r <;> simp_all [raisedIn]

/-- The errors of `GET_FIELD` (R231). -/
theorem getField_stops (i : Byte) (s : State) : StopsIn (raisedIn cacheErrors) (getField i s) := by
  unfold getField
  refine StopsIn.bind ((lookup_stops _ _).mono (raisedIn_mono (by simp [cacheErrors]))) fun e t ht => ?_
  refine StopsIn.bind ((fetchIfAbsent_stops _).mono (raisedIn_mono (by simp [cacheErrors]; tauto))) fun _ u hu => ?_
  obtain ⟨rfl, hf⟩ := lookup_ok ht
  have := find_range hf
  unfold memRead
  rw [if_pos (by omega)]
  exact StopsIn.ok _ _

theorem writeBack_stops (s : State) :
    StopsIn (raisedIn (.notConnected :: .noChannel :: .addressRange :: wireErrors)) (writeBack s) := by
  unfold writeBack memRead
  rw [if_pos (by omega), Ret.bind_ok]
  exact writeFlash_stops _ _ _

/-- The errors of `SetField`, for an entry of the table (R232). -/
theorem setField_stops {i : Byte} {e : FieldEntry} (v : Value) {s : State} (he : s.cfg.params.find i = some e) :
    StopsIn (raisedIn cacheErrors) (setField e v s) := by
  have hr := find_range he
  unfold setField
  refine StopsIn.bind (StopsIn.ofExcept fun x hx => ?_) fun raw t ht => ?_
  · rcases encodeValue_error hx with rfl | rfl <;> simp [raisedIn, cacheErrors]
  have hraw : raw.length = e.width := by
    cases hx : encodeValue s.cfg.params.strPad e.width e.codec v with
    | ok r => rw [hx] at ht; cases ht; exact encodeValue_length hx
    | error r => rw [hx] at ht; cases ht
  split
  · exact StopsIn.raise (by simp [raisedIn, cacheErrors]) _
  split
  · exact StopsIn.raise (by simp [raisedIn, cacheErrors]) _
  refine StopsIn.bind ((fetchIfAbsent_stops _).mono (raisedIn_mono (by simp [cacheErrors]; tauto))) fun _ u hu => ?_
  unfold mutate memWrite
  rw [if_pos (by omega), Ret.bind_ok]
  exact (writeBack_stops _).mono (raisedIn_mono (by simp [cacheErrors]; tauto))

theorem setOwnField_stops (i : Byte) (v : Value) (s : State) : StopsIn (raisedIn cacheErrors) (setOwnField i v s) := by
  unfold setOwnField
  refine StopsIn.bind ((lookup_stops _ _).mono (raisedIn_mono (by simp [cacheErrors]))) fun e t ht => ?_
  obtain ⟨rfl, hf⟩ := lookup_ok ht
  exact setField_stops v hf

/-- The errors of step 4 (R265). -/
theorem resetVersion_stops (s : State) : StopsIn (raisedIn cacheErrors) (resetVersion s) := by
  unfold resetVersion
  refine StopsIn.bind ((lookup_stops _ _).mono (raisedIn_mono (by simp [cacheErrors]))) fun e t ht => ?_
  obtain ⟨rfl, hf⟩ := lookup_ok ht
  refine StopsIn.bind ((lookup_stops _ _).mono (raisedIn_mono (by simp [cacheErrors]))) fun e' t' ht' => ?_
  obtain ⟨rfl, hf'⟩ := lookup_ok ht'
  obtain ⟨-, ⟨a, ha, ha1, -⟩, ⟨b, hb, hb1, -⟩, -⟩ := own_fields_present t'.cfg
  have r1 := find_range hf
  have r2 := find_range hf'
  unfold mutate memWrite
  rw [if_pos (by simp; omega), Ret.bind_ok, if_pos (by simp; omega), Ret.bind_ok]
  exact (writeBack_stops _).mono (raisedIn_mono (by simp [cacheErrors]; tauto))

theorem selectChannel_stops (c : Byte) (s : State) :
    StopsIn (raisedIn (.notConnected :: .payloadEmpty :: .payloadTooLong :: wireErrors)) (selectChannel c s) := by
  unfold selectChannel
  exact StopsIn.bind (e4wSend_stops _ _ _ _) fun _ t _ => StopsIn.ok _ _

theorem exitSession_stops (s : State) :
    StopsIn (raisedIn (.notConnected :: .payloadEmpty :: .payloadTooLong :: wireErrors)) (exitSession s) := by
  unfold exitSession
  exact StopsIn.bind (e4wSend_stops _ _ _ _) fun _ t _ => StopsIn.ok _ _

/-- The steps of `FLASH_ALL` raise or are abandoned; none breaks the model (R260, R293). -/
theorem flashSteps_stops (fw : List Byte) (s : State) : StopsIn (raisedIn cacheErrors) (flashSteps fw s) := by
  unfold flashSteps seqStepDo
  refine StopsIn.bind ((selectChannel_stops _ _).mono (raisedIn_mono (by simp [cacheErrors]; tauto))) fun _ s _ => ?_
  refine StopsIn.bind (setOwnField_stops _ _ _) fun _ s _ => ?_
  refine StopsIn.bind (setOwnField_stops _ _ _) fun _ s _ => ?_
  refine StopsIn.bind (resetVersion_stops _) fun _ s _ => ?_
  refine StopsIn.bind ((writeFlash_stops _ _ _).mono (raisedIn_mono (by simp [cacheErrors]; tauto))) fun _ s _ => ?_
  refine StopsIn.bind (setOwnField_stops _ _ _) fun _ s _ => ?_
  refine StopsIn.bind (setOwnField_stops _ _ _) fun _ s _ => ?_
  exact (exitSession_stops _).mono (raisedIn_mono (by simp [cacheErrors]; tauto))

end Sys2Proof.Machine
end

