-- ==== Sys2Proof/Laws/Frames.lean ====
section
/-! SUPPORT. The relations every procedure keeps, as instances of Laws/Procedure.lean, and the stream events of one transaction. -/

namespace Sys2Proof.Machine

/-- What the host gives the core is never written by a procedure. -/
theorem sameHost_rel : SequencerRel SameHost := by
  refine ⟨⟨⟨⟨?_, ?_, ?_, ?_, ?_, ?_, ?_⟩, ?_, ?_⟩, ?_, ?_⟩, ?_, ?_, ?_⟩ <;> intros <;> simp_all [SameHost]

/-- The transports leave the mirror and `CACHED` alone; so do the session operations. -/
theorem sameCache_rel : ChannelRel SameCache := by
  refine ⟨⟨⟨?_, ?_, ?_, ?_, ?_, ?_, ?_⟩, ?_, ?_⟩, ?_, ?_⟩ <;> intros <;> simp_all [SameCache]

/-- The transports and the settings cache leave the channel alone. -/
theorem sameChannel_rel : CacheRel SameChannel := by
  refine ⟨⟨⟨?_, ?_, ?_, ?_, ?_, ?_, ?_⟩, ?_, ?_⟩, ?_, ?_⟩ <;> intros <;> simp_all [SameChannel]

/-- The mirror keeps its canonical form. -/
theorem memory_wf_rel : SequencerRel (fun s t => Memory.wf s.mem → Memory.wf t.mem) := by
  have write : ∀ (s : State) (a : Nat) (bs : List Byte), a + bs.length ≤ 256 → Memory.wf s.mem →
      Memory.wf (s.setMem (writeBytes s.mem a bs)).mem := fun s a bs h hw => writeBytes_wf _ _ _ hw h
  exact ⟨⟨⟨⟨fun _ h => h, fun _ _ _ h g x => g (h x), fun _ _ h => h, fun _ _ h => h, fun _ _ h => h,
    fun _ _ _ h => h, fun _ _ _ _ h => h⟩, fun _ _ h => h, fun _ _ h => h⟩, write, fun _ h => h⟩, fun _ h => h,
    fun _ _ h => h, fun _ _ h => h⟩

/-- `CACHED` is never cleared (R22). -/
theorem cached_rel : SequencerRel (fun s t => s.cached = true → t.cached = true) := by
  refine ⟨⟨⟨⟨?_, ?_, ?_, ?_, ?_, ?_, ?_⟩, ?_, ?_⟩, ?_, ?_⟩, ?_, ?_, ?_⟩ <;> intros <;> simp_all

/-- The stream events only grow, and every new one keeps the bounds of R12 and carries `TIMEOUT` (R26, R73). -/
def EventsGrow (s t : State) : Prop :=
  t.timeout = s.timeout ∧ ∃ new, t.events = s.events ++ new ∧
    ∀ e ∈ new, (∀ k bs n, e = .write k bs n → n ≤ bs.length) ∧
      (∀ k max tt bs, e = .read k max tt bs → tt = s.timeout ∧ bs.length ≤ max)

theorem EventsGrow.of_same {s t : State} (h1 : t.timeout = s.timeout) (h2 : t.events = s.events) : EventsGrow s t :=
  ⟨h1, [], by simp [h2], by simp⟩

theorem EventsGrow.trans {a b c : State} (h1 : EventsGrow a b) (h2 : EventsGrow b c) : EventsGrow a c := by
  obtain ⟨t1, n1, e1, p1⟩ := h1
  obtain ⟨t2, n2, e2, p2⟩ := h2
  refine ⟨t2.trans t1, n1 ++ n2, by rw [e2, e1, List.append_assoc], ?_⟩
  intro e he
  rcases List.mem_append.1 he with he | he
  · exact p1 e he
  · rw [t1] at p2; exact p2 e he

theorem streamWrite_grows (bs : List Byte) (s : State) : EventsGrow s (streamWrite bs s).state := by
  unfold streamWrite
  split
  · exact EventsGrow.of_same rfl rfl
  · refine ⟨rfl, [_], rfl, ?_⟩
    intro e he
    rw [List.mem_singleton] at he
    subst he
    constructor
    · intro k b n h; cases h; omega
    · intro _ _ _ _ h; cases h

theorem streamRead_grows (max : Nat) (s : State) : EventsGrow s (streamRead max s).state := by
  unfold streamRead
  split
  · exact EventsGrow.of_same rfl rfl
  · refine ⟨rfl, [_], rfl, ?_⟩
    intro e he
    rw [List.mem_singleton] at he
    subst he
    constructor
    · intro _ _ _ h; cases h
    · intro k m tt b h; cases h; simp

/-! ## The events of one transaction -/

/-- What one call of `StreamWrite` answers when it answers. -/
theorem streamWrite_ok {bs : List Byte} {s t : State} {n : Nat} (h : streamWrite bs s = .ok n t) :
    n ≤ bs.length ∧ s.env.abandonsNow = false ∧
      t = (s.setEnv s.env.afterWrite).addEvent (.write s.seqStep bs n) := by
  unfold streamWrite at h
  split at h
  · cases h
  · cases h; exact ⟨by omega, (Bool.not_eq_true _).mp ‹_›, rfl⟩

/-- What one call of `StreamRead` answers when it answers. -/
theorem streamRead_ok {max : Nat} {s t : State} {bs : List Byte} (h : streamRead max s = .ok bs t) :
    bs.length ≤ max ∧ s.env.abandonsNow = false ∧ bs = s.nextLine.take max ∧
      t = (s.setEnv (s.env.afterRead (s.nextLine.drop max))).addEvent (.read s.seqStep max s.timeout bs) := by
  unfold streamRead at h
  split at h
  · cases h
  · cases h; exact ⟨by simp, (Bool.not_eq_true _).mp ‹_›, rfl, rfl⟩

/-- A request that ends `OK` was sent whole on an attached stream, in one write (lines 1 to 8 of R180). -/
theorem e4wPut_ok {cmd : Byte} {addr : Half} {out : List Byte} {s t : State} (h : e4wPut cmd addr out s = .ok () t) :
    s.linkUp = true ∧ 1 ≤ out.length ∧ out.length ≤ 256 ∧ s.env.abandonsNow = false ∧
      t = ((s.setTx (e4wRequest s.cfg.params cmd addr out)).setEnv s.env.afterWrite).addEvent
        (.write s.seqStep (e4wRequest s.cfg.params cmd addr out) (e4wRequest s.cfg.params cmd addr out).length) := by
  unfold e4wPut at h
  split at h
  · cases h
  split at h
  · cases h
  split at h
  · cases h
  rename_i hl h1 h2
  obtain ⟨w, u, hw, h⟩ := Ret.bind_eq_ok.1 h
  obtain ⟨hwn, hab, rfl⟩ := streamWrite_ok hw
  split at h
  · cases h
  rename_i hfull
  obtain rfl : w = (e4wRequest s.cfg.params cmd addr out).length := by
    have : ¬w < (e4wRequest s.cfg.params cmd addr out).length := hfull
    omega
  cases h
  exact ⟨by simpa using hl, by omega, by omega, hab, rfl⟩

/-- A transaction that ends `OK` sent the whole request and took an acknowledged reply: its three events, and its payload (R180). -/
theorem e4wSend_ok {cmd : Byte} {addr : Half} {out : List Byte} {s t : State} {p : List Byte}
    (h : e4wSend cmd addr out s = .ok p t) :
    s.linkUp = true ∧ 1 ≤ out.length ∧ out.length ≤ 256 ∧ t.res.ack = 0 ∧
      ∃ hd b, t.events = s.events ++
          [.write s.seqStep (e4wRequest s.cfg.params cmd addr out) (e4wRequest s.cfg.params cmd addr out).length,
           .read s.seqStep 5 s.timeout hd, .read s.seqStep (lenDec (hd.getD 4 0) + 3) s.timeout b] ∧
        acknowledged
          [.write s.seqStep (e4wRequest s.cfg.params cmd addr out) (e4wRequest s.cfg.params cmd addr out).length,
           .read s.seqStep 5 s.timeout hd, .read s.seqStep (lenDec (hd.getD 4 0) + 3) s.timeout b] ∧
        p = b.take (lenDec (hd.getD 4 0)) := by
  obtain ⟨_, u, hput, h⟩ := Ret.bind_eq_ok.1 h
  obtain ⟨hl, h1, h2, -, rfl⟩ := e4wPut_ok hput
  unfold e4wReply at h
  obtain ⟨hd, v, hr, h⟩ := Ret.bind_eq_ok.1 h
  obtain ⟨hh, -, -, rfl⟩ := streamRead_ok hr
  split at h
  · cases h
  rename_i hd5
  obtain ⟨b, x, hr', h⟩ := Ret.bind_eq_ok.1 h
  obtain ⟨hb, -, -, rfl⟩ := streamRead_ok hr'
  split at h
  · cases h
  rename_i hbl
  unfold e4wCheck at h
  split at h
  · cases h
  rename_i hcrc
  obtain ⟨_, y, ha, h⟩ := Ret.bind_eq_ok.1 h
  cases h
  unfold e4wAck at ha
  split at ha
  · rename_i hack
    cases ha
    have hb0 : b.getD (e4wDeclared hd) 0 = 0 := by
      unfold ackError at hack
      split at hack
      · assumption
      · cases hack
    refine ⟨hl, h1, h2, by simpa using hb0, hd, b, ?_, ?_, rfl⟩
    · simp [State.addEvent, e4wDeclared]
    · exact ⟨_, _, _, _, _, rfl, by omega, by unfold e4wDeclared at *; omega, not_not.1 hcrc, hb0⟩
  · cases ha

/-- The new events are reads of the step and the timeout `s` has. -/
def OnlyReads (s t : State) : Prop :=
  t.seqStep = s.seqStep ∧ t.timeout = s.timeout ∧
    ∃ new, t.events = s.events ++ new ∧ ∀ e ∈ new, ∃ m bs, e = .read s.seqStep m s.timeout bs

theorem OnlyReads.refl (s : State) : OnlyReads s s := ⟨rfl, rfl, [], by simp, by simp⟩

theorem OnlyReads.trans {a b c : State} (h1 : OnlyReads a b) (h2 : OnlyReads b c) : OnlyReads a c := by
  obtain ⟨s1, t1, n1, e1, p1⟩ := h1
  obtain ⟨s2, t2, n2, e2, p2⟩ := h2
  refine ⟨s2.trans s1, t2.trans t1, n1 ++ n2, by rw [e2, e1, List.append_assoc], ?_⟩
  intro e he
  rcases List.mem_append.1 he with he | he
  · exact p1 e he
  · rw [s1, t1] at p2; exact p2 e he

theorem streamRead_onlyReads (max : Nat) (s : State) : OnlyReads s (streamRead max s).state := by
  unfold streamRead
  split
  · exact OnlyReads.refl s
  · exact ⟨rfl, rfl, [_], rfl, by simp⟩

theorem e4wAck_onlyReads (b : Byte) (s : State) : OnlyReads s (e4wAck b s).state := by
  unfold e4wAck
  split <;> exact ⟨rfl, rfl, [], by simp [raise], by simp⟩

theorem e4wCheck_onlyReads (x y : List Byte) (s : State) : OnlyReads s (e4wCheck x y s).state := by
  unfold e4wCheck
  split
  · exact OnlyReads.refl s
  · exact Ret.bind_rel (R := OnlyReads) (fun _ _ _ h g => OnlyReads.trans h g) (e4wAck_onlyReads _ s) fun _ t _ => OnlyReads.refl t

theorem e4wReply_onlyReads (s : State) : OnlyReads s (e4wReply s).state := by
  have rx : ∀ (t : State) bs, OnlyReads t (t.setRx bs) := fun t bs => ⟨rfl, rfl, [], by simp, by simp⟩
  unfold e4wReply
  refine Ret.bind_rel (R := OnlyReads) (fun _ _ _ h g => OnlyReads.trans h g) (streamRead_onlyReads 5 s) fun h t _ => ?_
  split
  · exact rx t h
  · refine (rx t h).trans (Ret.bind_rel (R := OnlyReads) (fun _ _ _ h g => OnlyReads.trans h g) (streamRead_onlyReads _ _) fun b u _ => ?_)
    split
    · exact rx u _
    · exact (rx u _).trans (e4wCheck_onlyReads _ _ _)

/-- Whatever the stream answers, the new events of a transaction are its one write and its reads, at the step it runs in (R180, R189). -/
theorem e4wSend_events (cmd : Byte) (addr : Half) (out : List Byte) (s : State) :
    ∃ new, (e4wSend cmd addr out s).state.events = s.events ++ new ∧
      ∀ e ∈ new, (∃ n, e = .write s.seqStep (e4wRequest s.cfg.params cmd addr out) n) ∨
        ∃ m bs, e = .read s.seqStep m s.timeout bs := by
  unfold e4wSend e4wPut
  split
  · exact ⟨[], by simp, by simp⟩
  split
  · exact ⟨[], by simp, by simp⟩
  split
  · exact ⟨[], by simp, by simp⟩
  cases hw : streamWrite (e4wRequest s.cfg.params cmd addr out) (s.setTx (e4wRequest s.cfg.params cmd addr out)) with
  | stop r t =>
    unfold streamWrite at hw
    split at hw <;> cases hw
    exact ⟨[], by simp, by simp⟩
  | ok w t =>
    obtain ⟨-, -, rfl⟩ := streamWrite_ok hw
    rw [Ret.bind_ok]
    split
    · exact ⟨[_], rfl, by simp⟩
    · rw [Ret.bind_ok]
      obtain ⟨-, -, new, h1, h2⟩ := e4wReply_onlyReads
        (((s.setTx (e4wRequest s.cfg.params cmd addr out)).setEnv
          (s.setTx (e4wRequest s.cfg.params cmd addr out)).env.afterWrite).addEvent
            (.write (s.setTx (e4wRequest s.cfg.params cmd addr out)).seqStep (e4wRequest s.cfg.params cmd addr out) w))
      refine ⟨.write s.seqStep (e4wRequest s.cfg.params cmd addr out) w :: new, by rw [h1]; simp [State.addEvent], ?_⟩
      intro e he
      rcases List.mem_cons.1 he with rfl | he
      · exact .inl ⟨w, rfl⟩
      · exact .inr (h2 e he)

end Sys2Proof.Machine
end

