-- ==== Sys2Proof/Laws/PerInstr.lean ====
section
/-! SUPPORT. A statement about every instruction as syntax, with one lemma per constructor: its code has no longer form. -/

namespace Sys2Proof.Laws.NoLongerForm

open Sys2Proof

/-- The bytes of the code, followed by one more byte, are no code of its place. -/
def Statement (i : Instr) : Prop :=
  ∀ (p : Params) (b : Byte), ∃ e, decode p (encode p i).1 ((encode p i).2 ++ [b]) = .error e

theorem crc8 : Statement .crc8 := fun _ _ => ⟨_, rfl⟩
theorem crc16x : Statement .crc16x := fun _ _ => ⟨_, rfl⟩
theorem crc16r : Statement .crc16r := fun _ _ => ⟨_, rfl⟩
theorem mspTransact : Statement .mspTransact := fun _ _ => ⟨_, rfl⟩
theorem e4wSend : Statement .e4wSend := fun _ _ => ⟨_, rfl⟩
theorem readFlash : Statement .readFlash := fun _ _ => ⟨_, rfl⟩
theorem writeFlash : Statement .writeFlash := fun _ _ => ⟨_, rfl⟩
theorem fetch : Statement .fetch := fun _ _ => ⟨_, rfl⟩
theorem getField : Statement .getField := fun _ _ => ⟨_, rfl⟩
theorem setField : Statement .setField := fun _ _ => ⟨_, rfl⟩
theorem flashAll : Statement .flashAll := fun _ _ => ⟨_, rfl⟩
theorem selectChannel : Statement .selectChannel := fun _ _ => ⟨_, rfl⟩
theorem exitSession : Statement .exitSession := fun _ _ => ⟨_, rfl⟩
theorem reservedOp0 : Statement .reservedOp0 := fun _ _ => ⟨_, rfl⟩
theorem reservedOpE : Statement .reservedOpE := fun _ _ => ⟨_, rfl⟩
theorem reservedOpF : Statement .reservedOpF := fun _ _ => ⟨_, rfl⟩
theorem vkindInt : Statement .vkindInt := fun _ _ => ⟨_, rfl⟩
theorem vkindDisabled : Statement .vkindDisabled := fun _ _ => ⟨_, rfl⟩
theorem vkindBytes : Statement .vkindBytes := fun _ _ => ⟨_, rfl⟩
theorem vkindReserved : Statement .vkindReserved := fun _ _ => ⟨_, rfl⟩
theorem ackOk : Statement .ackOk := fun _ _ => ⟨_, rfl⟩
theorem ackInvalidCmd : Statement .ackInvalidCmd := fun _ _ => ⟨_, rfl⟩
theorem ackInvalidCrc : Statement .ackInvalidCrc := fun _ _ => ⟨_, rfl⟩
theorem ackVerifyError : Statement .ackVerifyError := fun _ _ => ⟨_, rfl⟩
theorem ackInvalidChannel : Statement .ackInvalidChannel := fun _ _ => ⟨_, rfl⟩
theorem ackInvalidParam : Statement .ackInvalidParam := fun _ _ => ⟨_, rfl⟩
theorem ackGeneralError : Statement .ackGeneralError := fun _ _ => ⟨_, rfl⟩
theorem ackUnknown (a : Byte) : Statement (.ackUnknown a) := fun _ _ => ⟨_, rfl⟩
theorem blRun : Statement .blRun := fun _ _ => ⟨_, rfl⟩
theorem blProgramFlash : Statement .blProgramFlash := fun _ _ => ⟨_, rfl⟩
theorem blEraseFlash : Statement .blEraseFlash := fun _ _ => ⟨_, rfl⟩
theorem blVerifyOrOther3 : Statement .blVerifyOrOther3 := fun _ _ => ⟨_, rfl⟩
theorem blVerifyOrOther4 : Statement .blVerifyOrOther4 := fun _ _ => ⟨_, rfl⟩
theorem blProgramEeprom : Statement .blProgramEeprom := fun _ _ => ⟨_, rfl⟩
theorem blReadSram : Statement .blReadSram := fun _ _ => ⟨_, rfl⟩
theorem blKeepAlive : Statement .blKeepAlive := fun _ _ => ⟨_, rfl⟩
theorem blSetBuffer : Statement .blSetBuffer := fun _ _ => ⟨_, rfl⟩
theorem blSetAddress : Statement .blSetAddress := fun _ _ => ⟨_, rfl⟩
theorem e4wDeviceInit : Statement .e4wDeviceInit := fun _ _ => ⟨_, rfl⟩
theorem e4wDeviceRead : Statement .e4wDeviceRead := fun _ _ => ⟨_, rfl⟩
theorem e4wDeviceWrite : Statement .e4wDeviceWrite := fun _ _ => ⟨_, rfl⟩
theorem e4wExit : Statement .e4wExit := fun _ _ => ⟨_, rfl⟩
theorem mspFrame : Statement .mspFrame := fun _ _ => ⟨_, rfl⟩
theorem e4wRequestFrame : Statement .e4wRequestFrame := fun _ _ => ⟨_, rfl⟩
theorem e4wReplyFrame : Statement .e4wReplyFrame := fun _ _ => ⟨_, rfl⟩
theorem settingsBlock : Statement .settingsBlock := fun _ _ => ⟨_, rfl⟩
theorem fieldTableEntry : Statement .fieldTableEntry := fun _ _ => ⟨_, rfl⟩
theorem codecRaw : Statement .codecRaw := fun _ _ => ⟨_, rfl⟩
theorem codecBounded : Statement .codecBounded := fun _ _ => ⟨_, rfl⟩
theorem codecScaled : Statement .codecScaled := fun _ _ => ⟨_, rfl⟩
theorem codecString : Statement .codecString := fun _ _ => ⟨_, rfl⟩
theorem markerInvalid : Statement .markerInvalid := fun _ _ => ⟨_, rfl⟩
theorem markerValid : Statement .markerValid := fun _ _ => ⟨_, rfl⟩
theorem diagFlashFail : Statement .diagFlashFail := fun _ _ => ⟨.noDiagString, by simp [decode, encode, flashFailText, notReadyText]⟩
theorem diagNotReady : Statement .diagNotReady := fun _ _ => ⟨.noDiagString, by simp [decode, encode, flashFailText, notReadyText]⟩
theorem e4wLengthByte : Statement .e4wLengthByte := fun _ _ => ⟨_, rfl⟩
theorem statusOk : Statement .statusOk := fun _ _ => ⟨_, rfl⟩
theorem statusBadPreamble : Statement .statusBadPreamble := fun _ _ => ⟨_, rfl⟩
theorem statusLengthMismatch : Statement .statusLengthMismatch := fun _ _ => ⟨_, rfl⟩
theorem statusCrcMismatch : Statement .statusCrcMismatch := fun _ _ => ⟨_, rfl⟩
theorem statusShortRead : Statement .statusShortRead := fun _ _ => ⟨_, rfl⟩
theorem statusShortWrite : Statement .statusShortWrite := fun _ _ => ⟨_, rfl⟩
theorem statusCommandError : Statement .statusCommandError := fun _ _ => ⟨_, rfl⟩
theorem statusSequenceError : Statement .statusSequenceError := fun _ _ => ⟨_, rfl⟩
theorem statusChannelInitError : Statement .statusChannelInitError := fun _ _ => ⟨_, rfl⟩
theorem statusNotConnected : Statement .statusNotConnected := fun _ _ => ⟨_, rfl⟩
theorem statusNoChannel : Statement .statusNoChannel := fun _ _ => ⟨_, rfl⟩
theorem statusPayloadTooLong : Statement .statusPayloadTooLong := fun _ _ => ⟨_, rfl⟩
theorem statusPayloadEmpty : Statement .statusPayloadEmpty := fun _ _ => ⟨_, rfl⟩
theorem statusAddressRange : Statement .statusAddressRange := fun _ _ => ⟨_, rfl⟩
theorem statusUnknownField : Statement .statusUnknownField := fun _ _ => ⟨_, rfl⟩
theorem statusValueUnrepresentable : Statement .statusValueUnrepresentable := fun _ _ => ⟨_, rfl⟩
theorem statusUnknownOp : Statement .statusUnknownOp := fun _ _ => ⟨_, rfl⟩
theorem statusBadValueKind : Statement .statusBadValueKind := fun _ _ => ⟨_, rfl⟩

end Sys2Proof.Laws.NoLongerForm
end

