-- ==== Sys2Proof/Laws/Transfer.lean ====
section
/-! SUPPORT. What the procedures answer when the peer acknowledges every transaction: chunked transfers, the fetch, the write back, the edit of a field and the version reset, each as one equation between states. -/

namespace Sys2Proof.Machine

/-- The state after `k` acknowledged transactions with these events, and these bytes left in the packet buffers. -/
def State.afterWire (s : State) (tx rx : List Byte) (k : Nat) (es : List StreamEvent) : State :=
  { s with txbuf := tx, rxbuf := rx, env := s.env.afterAnswers k, events := s.events ++ es }

theorem Env.afterAnswers_add (e : Env) (j k : Nat) : (e.afterAnswers j).afterAnswers k = e.afterAnswers (j + k) := by
  simp [Env.afterAnswers, Nat.mul_add]

theorem Env.afterAnswers_zero (e : Env) : e.afterAnswers 0 = e := by simp [Env.afterAnswers]

theorem afterTransaction_eq {s : State} (h : s.res.ack = 0) (cmd : Byte) (addr : Half) (out : List Byte) (r : Reply) :
    s.afterTransaction cmd addr out r =
      s.afterWire (e4wRequest s.cfg.params cmd addr out) (r.head ++ r.tail 0) 1
        (transactionEvents s.seqStep s.cfg.params s.timeout cmd addr out r) := by
  obtain ⟨_, _, _, _, _, _, _, _, ⟨_, _, ack, _, _, _, _, _, _⟩⟩ := s
  obtain rfl : ack = 0 := h
  rfl

/-- One transaction with a peer that acknowledges it, where no reply with another acknowledgement came before. -/
theorem e4wSend_wire {s : State} {cmd : Byte} {addr : Half} {out : List Byte} {r : Reply} {rs : List Reply}
    (ha : s.res.ack = 0) (hl : s.linkUp = true) (ho1 : 1 ≤ out.length) (ho2 : out.length ≤ 256)
    (h : s.env.answers (r :: rs)) :
    ∃ tx rx, e4wSend cmd addr out s = .ok r.payload
        (s.afterWire tx rx 1 (transactionEvents s.seqStep s.cfg.params s.timeout cmd addr out r)) ∧
      (s.env.afterAnswers 1).answers rs := by
  obtain ⟨h1, h2⟩ := e4wSend_answered (cmd := cmd) (addr := addr) hl ho1 ho2 h
  exact ⟨_, _, by rw [h1, afterTransaction_eq ha], by simpa [State.afterTransaction] using h2⟩

theorem chunkAddr_zero (a : Half) : chunkAddr a.toNat 0 = a := by
  apply BitVec.eq_of_toNat_eq
  simp [chunkAddr]

/-- Chunks of a read, each acknowledged with as many bytes as asked for (R190). -/
theorem readChunks_answered {addr len k i : Nat} {rs rs' : List Reply} {s : State} (ha : s.res.ack = 0)
    (hl : s.linkUp = true) (hk : rs.length = k) (hp : ∀ j r, rs[j]? = some r → r.payload.length = chunkLen len (i + j))
    (h : s.env.answers (rs ++ rs')) :
    ∃ tx rx, readChunks addr len k i s = .ok ()
        (((s.afterWire tx rx k
            ((rs.zipIdx i).flatMap fun x =>
              transactionEvents s.seqStep s.cfg.params s.timeout s.cfg.params.cmdDeviceRead (chunkAddr addr x.2)
                [lenEnc (chunkLen len x.2)] x.1)).setInbuf (s.inbuf ++ rs.flatMap Reply.payload)).setXfer
          (s.res.xfer + BitVec.ofNat 32 (rs.flatMap Reply.payload).length)) ∧
      (s.env.afterAnswers k).answers rs' := by
  induction k generalizing i rs s with
  | zero =>
    obtain rfl : rs = [] := List.length_eq_zero_iff.1 hk
    refine ⟨s.txbuf, s.rxbuf, ?_, by simpa [Env.afterAnswers_zero] using h⟩
    simp [readChunks, State.afterWire, Env.afterAnswers_zero, State.setInbuf, State.setXfer]
  | succ k ih =>
    cases rs with
    | nil => simp at hk
    | cons r rs =>
      obtain ⟨tx, rx, e1, h1⟩ := e4wSend_wire (cmd := s.cfg.params.cmdDeviceRead) (addr := chunkAddr addr i)
        (out := [lenEnc (chunkLen len i)]) ha hl (by simp) (by simp) h
      have hr : r.payload.length = chunkLen len i := by simpa using hp 0 r (by simp)
      have e2 : deviceRead (chunkAddr addr i) (chunkLen len i) s = .ok r.payload
          (s.afterWire tx rx 1 (transactionEvents s.seqStep s.cfg.params s.timeout s.cfg.params.cmdDeviceRead
            (chunkAddr addr i) [lenEnc (chunkLen len i)] r)) := by
        rw [deviceRead, e1, Ret.bind_ok, if_neg (by simp [hr])]
      obtain ⟨tx', rx', e3, h3⟩ := ih (i := i + 1) (rs := rs)
        (s := (s.afterWire tx rx 1 (transactionEvents s.seqStep s.cfg.params s.timeout s.cfg.params.cmdDeviceRead
          (chunkAddr addr i) [lenEnc (chunkLen len i)] r)).tookChunk r.payload)
        (by simpa [State.tookChunk, State.afterWire] using ha) (by simpa [State.tookChunk, State.afterWire] using hl)
        (by simpa using hk)
        (by intro j q hq; rw [hp (j + 1) q (by simpa using hq)]; congr 1; omega)
        (by simpa [State.tookChunk, State.afterWire] using h1)
      refine ⟨tx', rx', ?_, ?_⟩
      · rw [readChunks, e2, Ret.bind_ok, e3]
        simp [State.tookChunk, State.afterWire, State.setInbuf, State.setXfer, Env.afterAnswers_add,
          List.zipIdx_cons, BitVec.ofNat_add, BitVec.add_assoc, Nat.add_comm 1 k]
      · simpa [State.tookChunk, State.afterWire, Env.afterAnswers_add, Nat.add_comm 1 k] using h3

/-- A flash read whose transactions are all acknowledged (R190). -/
theorem readFlash_answered {addr len : Nat} {rs rs' : List Reply} {s : State} (ha : s.res.ack = 0)
    (hl : s.linkUp = true) (hc : s.chanValid = true) (hr : addr + len ≤ 65536) (hk : rs.length = chunkCount len)
    (hp : ∀ j r, rs[j]? = some r → r.payload.length = chunkLen len j) (h : s.env.answers (rs ++ rs')) :
    ∃ tx rx, readFlash addr len s = .ok ()
        (((s.afterWire tx rx (chunkCount len)
            (readEvents s.seqStep s.cfg.params s.timeout addr len rs)).setInbuf (rs.flatMap Reply.payload)).setXfer
          (BitVec.ofNat 32 (rs.flatMap Reply.payload).length)) ∧
      (s.env.afterAnswers (chunkCount len)).answers rs' := by
  obtain ⟨tx, rx, e, h'⟩ := readChunks_answered (addr := addr) (len := len) (i := 0) (rs := rs) (rs' := rs')
    (s := (s.setXfer 0).setInbuf []) (by simpa using ha) (by simpa using hl) hk (by simpa using hp) (by simpa using h)
  refine ⟨tx, rx, ?_, by simpa using h'⟩
  rw [readFlash, admitTransfer_of hl hc hr, Ret.bind_ok, e]
  simp [State.afterWire, State.setInbuf, State.setXfer, readEvents]

/-- Chunks of a write, each acknowledged (R194). -/
theorem writeChunks_answered {addr : Nat} {buf : List Byte} {k i : Nat} {rs rs' : List Reply} {s : State}
    (ha : s.res.ack = 0) (hl : s.linkUp = true) (hk : rs.length = k) (hi : i + k ≤ chunkCount buf.length)
    (h : s.env.answers (rs ++ rs')) :
    ∃ tx rx, writeChunks addr buf k i s = .ok ()
        ((s.afterWire tx rx k
            ((rs.zipIdx i).flatMap fun x =>
              transactionEvents s.seqStep s.cfg.params s.timeout s.cfg.params.cmdDeviceWrite (chunkAddr addr x.2)
                (chunkBytes buf x.2) x.1)).setXfer
          (s.res.xfer + BitVec.ofNat 32 ((List.range k).map fun j => chunkLen buf.length (i + j)).sum)) ∧
      (s.env.afterAnswers k).answers rs' := by
  induction k generalizing i rs s with
  | zero =>
    obtain rfl : rs = [] := List.length_eq_zero_iff.1 hk
    refine ⟨s.txbuf, s.rxbuf, ?_, by simpa [Env.afterAnswers_zero] using h⟩
    simp [writeChunks, State.afterWire, Env.afterAnswers_zero, State.setXfer]
  | succ k ih =>
    cases rs with
    | nil => simp at hk
    | cons r rs =>
      have hn := chunkLen_pos (len := buf.length) (i := i) (by omega)
      rw [← chunkBytes_length] at hn
      obtain ⟨tx, rx, e1, h1⟩ := e4wSend_wire (cmd := s.cfg.params.cmdDeviceWrite) (addr := chunkAddr addr i)
        (out := chunkBytes buf i) ha hl hn.1 hn.2 h
      obtain ⟨tx', rx', e3, h3⟩ := ih (i := i + 1) (rs := rs)
        (s := (s.afterWire tx rx 1 (transactionEvents s.seqStep s.cfg.params s.timeout s.cfg.params.cmdDeviceWrite
          (chunkAddr addr i) (chunkBytes buf i) r)).setXfer (s.res.xfer + BitVec.ofNat 32 (chunkLen buf.length i)))
        (by simpa [State.afterWire] using ha) (by simpa [State.afterWire] using hl) (by simpa using hk) (by omega)
        (by simpa [State.afterWire] using h1)
      refine ⟨tx', rx', ?_, ?_⟩
      · rw [writeChunks, deviceWrite, e1, Ret.bind_ok]
        simp only [State.afterWire, State.setXfer] at e3 ⊢
        rw [e3]
        simp [Env.afterAnswers_add, List.zipIdx_cons, List.range_succ_eq_map, Function.comp_def,
          BitVec.ofNat_add, BitVec.add_assoc, Nat.add_comm 1 k, Nat.add_assoc, Nat.add_comm 1]
      · simpa [State.afterWire, Env.afterAnswers_add, Nat.add_comm 1 k] using h3

/-- A flash write whose transactions are all acknowledged (R194). -/
theorem writeFlash_answered {addr : Nat} {buf : List Byte} {rs rs' : List Reply} {s : State} (ha : s.res.ack = 0)
    (hl : s.linkUp = true) (hc : s.chanValid = true) (hr : addr + buf.length ≤ 65536)
    (hk : rs.length = chunkCount buf.length) (h : s.env.answers (rs ++ rs')) :
    ∃ tx rx, writeFlash addr buf s = .ok ()
        ((s.afterWire tx rx (chunkCount buf.length)
            (writeEvents s.seqStep s.cfg.params s.timeout addr buf rs)).setXfer (BitVec.ofNat 32 buf.length)) ∧
      (s.env.afterAnswers (chunkCount buf.length)).answers rs' := by
  obtain ⟨tx, rx, e, h'⟩ := writeChunks_answered (addr := addr) (buf := buf) (i := 0) (rs := rs) (rs' := rs')
    (s := s.setXfer 0) (by simpa using ha) (by simpa using hl) hk (by omega) (by simpa using h)
  refine ⟨tx, rx, ?_, by simpa using h'⟩
  rw [writeFlash, admitTransfer_of hl hc hr, Ret.bind_ok, e]
  simp [State.afterWire, State.setXfer, writeEvents, chunkLen_sum]

/-- A write back that is acknowledged: the whole mirror in one transaction (R233). -/
theorem writeBack_answered {r : Reply} {rs : List Reply} {s : State} (ha : s.res.ack = 0) (hl : s.linkUp = true)
    (hc : s.chanValid = true) (h : s.env.answers (r :: rs)) :
    ∃ tx rx, writeBack s = .ok ()
        ((s.afterWire tx rx 1 (pageEvents s.seqStep s.cfg.params s.timeout (readBytes s.mem 0 256) r)).setXfer 256) ∧
      (s.env.afterAnswers 1).answers rs := by
  have hf := settings_fit s.cfg
  obtain ⟨tx, rx, e, h'⟩ := writeFlash_answered (addr := s.cfg.params.settingsBase.toNat)
    (buf := readBytes s.mem 0 256) (rs := [r]) (rs' := rs) ha hl hc (by simpa using hf) (by simp [chunkCount])
    (by simpa using h)
  refine ⟨tx, rx, ?_, by simpa [chunkCount] using h'⟩
  rw [writeBack, memRead, if_pos (by omega), Ret.bind_ok, e]
  have hb : chunkBytes (readBytes s.mem 0 256) 0 = readBytes s.mem 0 256 := by
    simp [chunkBytes, List.take_of_length_le]
  simp [writeEvents, pageEvents, chunkCount, chunkAddr_zero, hb]

/-- A fetch that is acknowledged with 256 bytes (R230). -/
theorem fetch_answered {r : Reply} {rs : List Reply} {s : State} (ha : s.res.ack = 0) (hl : s.linkUp = true)
    (hc : s.chanValid = true) (hp : r.payload.length = 256) (h : s.env.answers (r :: rs)) :
    ∃ tx rx, fetch s = .ok ()
        (((((s.afterWire tx rx 1 (fetchEvents s.seqStep s.cfg.params s.timeout r)).setInbuf r.payload).setXfer
          256).setMem (writeBytes s.mem 0 r.payload)).setCached) ∧
      (s.env.afterAnswers 1).answers rs := by
  have hf := settings_fit s.cfg
  obtain ⟨tx, rx, e, h'⟩ := readFlash_answered (addr := s.cfg.params.settingsBase.toNat) (len := 256) (rs := [r])
    (rs' := rs) ha hl hc hf (by simp [chunkCount])
    (by intro j q hq; cases j <;> simp_all [chunkLen]) (by simpa using h)
  refine ⟨tx, rx, ?_, by simpa [chunkCount] using h'⟩
  rw [fetch, e, Ret.bind_ok, memWrite, if_pos (by simp [hp]), Ret.bind_ok]
  have hz : lenEnc (chunkLen 256 0) = 0 := rfl
  simp [readEvents, fetchEvents, chunkCount, chunkAddr_zero, hz, hp, State.afterWire]

/-- The edit of a field with a populated mirror and an acknowledged write back (R232, R233). -/
theorem setField_answered {e : FieldEntry} {v : Value} {raw : List Byte} {r : Reply} {rs : List Reply} {s : State}
    (ha : s.res.ack = 0) (hl : s.linkUp = true) (hc : s.chanValid = true) (hm : s.cached = true)
    (he : e.offset + e.width ≤ 174) (hv : encodeValue s.cfg.params.strPad e.width e.codec v = .ok raw)
    (h : s.env.answers (r :: rs)) :
    ∃ tx rx, setField e v s = .ok ()
        (((s.setMem (writeBytes s.mem e.offset raw)).afterWire tx rx 1
          (pageEvents s.seqStep s.cfg.params s.timeout (readBytes (writeBytes s.mem e.offset raw) 0 256) r)).setXfer
          256) ∧
      (s.env.afterAnswers 1).answers rs := by
  have hw := encodeValue_length hv
  obtain ⟨tx, rx, ew, h'⟩ := writeBack_answered (s := s.setMem (writeBytes s.mem e.offset raw)) (by simpa using ha)
    (by simpa using hl) (by simpa using hc) (by simpa using h)
  refine ⟨tx, rx, ?_, by simpa using h'⟩
  rw [setField, hv]
  simp only [ofExcept, Ret.bind_ok]
  rw [if_neg (by simp [hl]), if_neg (by simp [hc]), fetchIfAbsent, if_pos hm, Ret.bind_ok, mutate, memWrite,
    if_pos (by omega), Ret.bind_ok, ew]
  simp

/-- The edit of a field with an empty mirror: a fetch, then the write back (R22, R232). -/
theorem setField_fetched {e : FieldEntry} {v : Value} {raw : List Byte} {q r : Reply} {rs : List Reply} {s : State}
    (ha : s.res.ack = 0) (hl : s.linkUp = true) (hc : s.chanValid = true) (hm : s.cached = false)
    (he : e.offset + e.width ≤ 174) (hv : encodeValue s.cfg.params.strPad e.width e.codec v = .ok raw)
    (hq : q.payload.length = 256) (h : s.env.answers (q :: r :: rs)) :
    ∃ tx rx, setField e v s = .ok ()
        ((((((s.setMem (writeBytes (writeBytes s.mem 0 q.payload) e.offset raw)).setCached).afterWire tx rx 2
          (fetchEvents s.seqStep s.cfg.params s.timeout q ++
            pageEvents s.seqStep s.cfg.params s.timeout
              (readBytes (writeBytes (writeBytes s.mem 0 q.payload) e.offset raw) 0 256) r)).setInbuf
            q.payload).setXfer 256)) ∧
      (s.env.afterAnswers 2).answers rs := by
  have hw := encodeValue_length hv
  obtain ⟨tx, rx, ef, h1⟩ := fetch_answered ha hl hc hq h
  obtain ⟨tx', rx', ew, h2⟩ := writeBack_answered (r := r) (rs := rs)
    (s := ((((((s.afterWire tx rx 1 (fetchEvents s.seqStep s.cfg.params s.timeout q)).setInbuf q.payload).setXfer
          256).setMem (writeBytes s.mem 0 q.payload)).setCached).setMem
            (writeBytes (writeBytes s.mem 0 q.payload) e.offset raw)))
    (by simpa [State.afterWire] using ha) (by simpa [State.afterWire] using hl)
    (by simpa [State.afterWire] using hc) (by simpa [State.afterWire] using h1)
  refine ⟨tx', rx', ?_, by simpa [State.afterWire, Env.afterAnswers_add] using h2⟩
  rw [setField, hv]
  simp only [ofExcept, Ret.bind_ok]
  rw [if_neg (by simp [hl]), if_neg (by simp [hc]), fetchIfAbsent, if_neg (by simp [hm]), ef, Ret.bind_ok, mutate,
    memWrite, if_pos (by omega), Ret.bind_ok]
  simp only [State.setMem_mem, State.setCached_mem]
  rw [ew]
  simp [State.afterWire, State.setMem, State.setCached, State.setInbuf, State.setXfer, Env.afterAnswers_add]

/-- Step 4 with an acknowledged write back: both version fields, one transaction (R265). -/
theorem resetVersion_answered {j n : FieldEntry} {r : Reply} {rs : List Reply} {s : State} (ha : s.res.ack = 0)
    (hl : s.linkUp = true) (hc : s.chanValid = true) (hj : s.cfg.params.find s.cfg.params.fVerMajor = some j)
    (hn : s.cfg.params.find s.cfg.params.fVerMinor = some n) (h : s.env.answers (r :: rs)) :
    ∃ tx rx, resetVersion s = .ok ()
        (((s.setMem (writeBytes (writeBytes s.mem j.offset [0]) n.offset [0])).afterWire tx rx 1
          (pageEvents s.seqStep s.cfg.params s.timeout
            (readBytes (writeBytes (writeBytes s.mem j.offset [0]) n.offset [0]) 0 256) r)).setXfer 256) ∧
      (s.env.afterAnswers 1).answers rs := by
  have hj' := find_range hj
  have hn' := find_range hn
  obtain ⟨tx, rx, ew, h'⟩ := writeBack_answered (r := r) (rs := rs)
    (s := (s.setMem (writeBytes s.mem j.offset [0])).setMem (writeBytes (writeBytes s.mem j.offset [0]) n.offset [0]))
    (by simpa using ha) (by simpa using hl) (by simpa using hc) (by simpa using h)
  refine ⟨tx, rx, ?_, by simpa using h'⟩
  rw [resetVersion, lookup_of hj, Ret.bind_ok, lookup_of hn, Ret.bind_ok, mutate, memWrite,
    if_pos (by simp; omega), Ret.bind_ok, mutate, memWrite, if_pos (by simp; omega), Ret.bind_ok]
  simp only [State.setMem_mem]
  rw [ew]
  simp [State.afterWire, State.setMem, State.setXfer]

end Sys2Proof.Machine
end

