-- ==== Sys2Proof/Laws/Running.lean ====
section
/-! SUPPORT. An operation in progress against a peer that acknowledges: what has been sent and what the mirror holds so far, and what each step of the sequencer adds. A run of several steps is a chain of these lemmas. -/

namespace Sys2Proof.Machine

/-- `t` is a state of an operation begun in `s`, after `k` acknowledged transactions with events `es`; the mirror reads as `page`. -/
structure Running (s t : State) (k : Nat) (es : List StreamEvent) (page : Nat → Byte) : Prop where
  cfg     : t.cfg = s.cfg
  timeout : t.timeout = s.timeout
  opnd    : t.opnd = s.opnd
  outbuf  : t.outbuf = s.outbuf
  linkUp  : t.linkUp = s.linkUp
  fw      : t.fw = s.fw
  inputs  : t.inputs = s.inputs
  ack     : t.res.ack = 0
  env     : t.env = s.env.afterAnswers k
  events  : t.events = s.events ++ es
  mem     : ∀ a, readByte t.mem a = page a

/-- An operation has just begun. -/
theorem Running.begin (s : State) : Running s s.begin 0 [] (readByte s.mem) :=
  ⟨rfl, rfl, rfl, rfl, rfl, rfl, rfl, rfl, (Env.afterAnswers_zero _).symm, by simp [State.begin], fun _ => rfl⟩

/-- The whole mirror read at once. -/
theorem readBytes_page {m : Memory} {page : Nat → Byte} (h : ∀ a, readByte m a = page a) :
    readBytes m 0 256 = pageBytes page := by
  simp [readBytes, pageBytes, h]

/-- The mirror after the bytes of a field are written (R233). -/
theorem readByte_mutate {m : Memory} {page : Nat → Byte} (h : ∀ a, readByte m a = page a) (e : FieldEntry)
    {raw : List Byte} (hl : raw.length = e.width) (a : Nat) :
    readByte (writeBytes m e.offset raw) a = editedByte page e raw a := by
  rw [readByte_writeBytes, editedByte, hl, h]

/-- The mirror after a fetch (R230). -/
theorem readByte_fetched {m : Memory} {page : Nat → Byte} (h : ∀ a, readByte m a = page a) (bs : List Byte) (a : Nat) :
    readByte (writeBytes m 0 bs) a = fetchedByte page bs a := by
  rw [readByte_writeBytes, fetchedByte, h]
  simp

namespace Running

variable {s t : State} {k : Nat} {es : List StreamEvent} {page : Nat → Byte}

/-- The update made by acknowledged transactions carries the facts on. -/
theorem wire (h : Running s t k es page) (tx rx : List Byte) (j : Nat) (fs : List StreamEvent) :
    Running s (t.afterWire tx rx j fs) (k + j) (es ++ fs) page :=
  ⟨h.cfg, h.timeout, h.opnd, h.outbuf, h.linkUp, h.fw, h.inputs, h.ack,
    by simp [State.afterWire, h.env, Env.afterAnswers_add], by simp [State.afterWire, h.events], h.mem⟩

theorem seqStep (h : Running s t k es page) (n : BitVec 4) : Running s (t.setSeqStep n) k es page :=
  ⟨h.cfg, h.timeout, h.opnd, h.outbuf, h.linkUp, h.fw, h.inputs, h.ack, h.env, h.events, h.mem⟩

theorem xfer (h : Running s t k es page) (x : Word) : Running s (t.setXfer x) k es page :=
  ⟨h.cfg, h.timeout, h.opnd, h.outbuf, h.linkUp, h.fw, h.inputs, h.ack, h.env, h.events, h.mem⟩

theorem inbuf (h : Running s t k es page) (bs : List Byte) : Running s (t.setInbuf bs) k es page :=
  ⟨h.cfg, h.timeout, h.opnd, h.outbuf, h.linkUp, h.fw, h.inputs, h.ack, h.env, h.events, h.mem⟩

theorem clearChan (h : Running s t k es page) : Running s t.clearChan k es page :=
  ⟨h.cfg, h.timeout, h.opnd, h.outbuf, h.linkUp, h.fw, h.inputs, h.ack, h.env, h.events, h.mem⟩

theorem setChan (h : Running s t k es page) (c : Byte) : Running s (t.setChan c) k es page :=
  ⟨h.cfg, h.timeout, h.opnd, h.outbuf, h.linkUp, h.fw, h.inputs, h.ack, h.env, h.events, h.mem⟩

theorem setCached (h : Running s t k es page) : Running s t.setCached k es page :=
  ⟨h.cfg, h.timeout, h.opnd, h.outbuf, h.linkUp, h.fw, h.inputs, h.ack, h.env, h.events, h.mem⟩

theorem setMem (h : Running s t k es page) {m : Memory} {page' : Nat → Byte} (hm : ∀ a, readByte m a = page' a) :
    Running s (t.setMem m) k es page' :=
  ⟨h.cfg, h.timeout, h.opnd, h.outbuf, h.linkUp, h.fw, h.inputs, h.ack, h.env, h.events, hm⟩

/-- A select that is acknowledged (R200). -/
theorem select (h : Running s t k es page) (c : Byte) {r : Reply} {rs : List Reply} (hl : s.linkUp = true)
    (ha : (s.env.afterAnswers k).answers (r :: rs)) :
    ∃ u, selectChannel c t = .ok () u ∧
      Running s u (k + 1)
        (es ++ transactionEvents t.seqStep s.cfg.params s.timeout s.cfg.params.cmdDeviceInit 0 [c] r) page ∧
      u.chanValid = true ∧ u.chan = c ∧ u.cached = t.cached ∧ (s.env.afterAnswers (k + 1)).answers rs := by
  obtain ⟨tx, rx, e, ha'⟩ := e4wSend_wire (s := t.clearChan) (cmd := s.cfg.params.cmdDeviceInit) (addr := 0)
    (out := [c]) (by simpa using h.ack) (by simpa [h.linkUp] using hl) (by simp) (by simp)
    (by simpa [h.env] using ha)
  refine ⟨_, ?_, ((h.clearChan.wire tx rx 1 _).setChan c), rfl, rfl, rfl, ?_⟩
  · rw [selectChannel, deviceInit, State.clearChan_cfg, h.cfg, e, Ret.bind_ok]
    simp [h.cfg, h.timeout]
  · simpa [h.env, Env.afterAnswers_add] using ha'

/-- An exit that is acknowledged (R202). -/
theorem exit (h : Running s t k es page) {r : Reply} {rs : List Reply} (hl : s.linkUp = true)
    (ha : (s.env.afterAnswers k).answers (r :: rs)) :
    ∃ u, exitSession t = .ok () u ∧
      Running s u (k + 1)
        (es ++ transactionEvents t.seqStep s.cfg.params s.timeout s.cfg.params.cmdExit 0 [0x00] r) page ∧
      u.chanValid = false ∧ u.chan = t.chan ∧ u.cached = t.cached ∧ (s.env.afterAnswers (k + 1)).answers rs := by
  obtain ⟨tx, rx, e, ha'⟩ := e4wSend_wire (s := t.clearChan) (cmd := s.cfg.params.cmdExit) (addr := 0)
    (out := [0x00]) (by simpa using h.ack) (by simpa [h.linkUp] using hl) (by simp) (by simp)
    (by simpa [h.env] using ha)
  refine ⟨_, ?_, h.clearChan.wire tx rx 1 _, rfl, rfl, rfl, ?_⟩
  · rw [exitSession, bootloaderExit, State.clearChan_cfg, h.cfg, e, Ret.bind_ok]
    simp [h.cfg, h.timeout]
  · simpa [h.env, Env.afterAnswers_add] using ha'

/-- A firmware write that is acknowledged (R194, R266). -/
theorem program (h : Running s t k es page) {addr : Nat} {buf : List Byte} {rf rs : List Reply} (hl : s.linkUp = true)
    (hv : t.chanValid = true) (hr : addr + buf.length ≤ 65536) (hk : rf.length = chunkCount buf.length)
    (ha : (s.env.afterAnswers k).answers (rf ++ rs)) :
    ∃ u, writeFlash addr buf t = .ok () u ∧
      Running s u (k + chunkCount buf.length)
        (es ++ writeEvents t.seqStep s.cfg.params s.timeout addr buf rf) page ∧
      u.chanValid = t.chanValid ∧ u.chan = t.chan ∧ u.cached = t.cached ∧
      u.res.xfer = BitVec.ofNat 32 buf.length ∧ (s.env.afterAnswers (k + chunkCount buf.length)).answers rs := by
  obtain ⟨tx, rx, e, ha'⟩ := writeFlash_answered (s := t) (addr := addr) h.ack (by simpa [h.linkUp] using hl) hv hr hk
    (by simpa [h.env] using ha)
  refine ⟨_, ?_, (h.wire tx rx _ _).xfer (BitVec.ofNat 32 buf.length), rfl, rfl, rfl, rfl, ?_⟩
  · rw [e, h.cfg, h.timeout]
  · simpa [h.env, Env.afterAnswers_add] using ha'

/-- The edit of a field of the table in a populated mirror (R232). -/
theorem edit (h : Running s t k es page) {i : Byte} {e : FieldEntry} {v : Value} {raw : List Byte} {r : Reply}
    {rs : List Reply} (hl : s.linkUp = true) (hv : t.chanValid = true) (hc : t.cached = true)
    (he : s.cfg.params.find i = some e) (hx : encodeValue s.cfg.params.strPad e.width e.codec v = .ok raw)
    (ha : (s.env.afterAnswers k).answers (r :: rs)) :
    ∃ u, setField e v t = .ok () u ∧
      Running s u (k + 1)
        (es ++ pageEvents t.seqStep s.cfg.params s.timeout (pageBytes (editedByte page e raw)) r)
        (editedByte page e raw) ∧
      u.chanValid = t.chanValid ∧ u.chan = t.chan ∧ u.cached = true ∧ (s.env.afterAnswers (k + 1)).answers rs := by
  have hm := readByte_mutate h.mem e (encodeValue_length hx)
  obtain ⟨tx, rx, e1, ha'⟩ := setField_answered (s := t) (e := e) (v := v) (raw := raw) h.ack
    (by simpa [h.linkUp] using hl) hv hc (find_range he).2 (by rw [h.cfg]; exact hx) (by simpa [h.env] using ha)
  refine ⟨_, ?_, ((h.setMem hm).wire tx rx 1 _).xfer 256, rfl, rfl, hc, ?_⟩
  · rw [e1, readBytes_page hm, h.cfg, h.timeout]
  · simpa [h.env, Env.afterAnswers_add] using ha'

/-- The edit of a field with an empty mirror: the fetch first (R22, R232). -/
theorem fetchEdit (h : Running s t k es page) {i : Byte} {e : FieldEntry} {v : Value} {raw : List Byte} {q r : Reply}
    {rs : List Reply} (hl : s.linkUp = true) (hv : t.chanValid = true) (hc : t.cached = false)
    (he : s.cfg.params.find i = some e) (hx : encodeValue s.cfg.params.strPad e.width e.codec v = .ok raw)
    (hq : q.payload.length = 256) (ha : (s.env.afterAnswers k).answers (q :: r :: rs)) :
    ∃ u, setField e v t = .ok () u ∧
      Running s u (k + 2)
        (es ++ (fetchEvents t.seqStep s.cfg.params s.timeout q ++
          pageEvents t.seqStep s.cfg.params s.timeout (pageBytes (editedByte (fetchedByte page q.payload) e raw)) r))
        (editedByte (fetchedByte page q.payload) e raw) ∧
      u.chanValid = t.chanValid ∧ u.chan = t.chan ∧ u.cached = true ∧ (s.env.afterAnswers (k + 2)).answers rs := by
  have hm := readByte_mutate (readByte_fetched h.mem q.payload) e (encodeValue_length hx)
  obtain ⟨tx, rx, e1, ha'⟩ := setField_fetched (s := t) (e := e) (v := v) (raw := raw) h.ack
    (by simpa [h.linkUp] using hl) hv hc (find_range he).2 (by rw [h.cfg]; exact hx) hq (by simpa [h.env] using ha)
  refine ⟨_, ?_, ((((h.setMem hm).setCached).wire tx rx 2 _).inbuf q.payload).xfer 256, rfl, rfl, rfl, ?_⟩
  · rw [e1, readBytes_page hm, h.cfg, h.timeout]
  · simpa [h.env, Env.afterAnswers_add] using ha'

/-- The version reset (R265). -/
theorem reset (h : Running s t k es page) {j n : FieldEntry} {r : Reply} {rs : List Reply} (hl : s.linkUp = true)
    (hv : t.chanValid = true) (hj : s.cfg.params.find s.cfg.params.fVerMajor = some j)
    (hn : s.cfg.params.find s.cfg.params.fVerMinor = some n) (ha : (s.env.afterAnswers k).answers (r :: rs)) :
    ∃ u, resetVersion t = .ok () u ∧
      Running s u (k + 1)
        (es ++ pageEvents t.seqStep s.cfg.params s.timeout
          (pageBytes (editedByte (editedByte page j [0x00]) n [0x00])) r)
        (editedByte (editedByte page j [0x00]) n [0x00]) ∧
      u.chanValid = t.chanValid ∧ u.chan = t.chan ∧ u.cached = t.cached ∧ (s.env.afterAnswers (k + 1)).answers rs := by
  obtain ⟨-, ⟨j', ej, wj, -⟩, ⟨n', en, wn, -⟩, -⟩ := own_fields_present s.cfg
  rw [hj] at ej; cases ej
  rw [hn] at en; cases en
  have hm := readByte_mutate (readByte_mutate h.mem j (raw := [0x00]) (by simp [wj])) n (raw := [0x00]) (by simp [wn])
  obtain ⟨tx, rx, e1, ha'⟩ := resetVersion_answered (s := t) (j := j) (n := n) h.ack (by simpa [h.linkUp] using hl) hv
    (by rw [h.cfg]; exact hj) (by rw [h.cfg]; exact hn) (by simpa [h.env] using ha)
  refine ⟨_, ?_, ((h.setMem hm).wire tx rx 1 _).xfer 256, rfl, rfl, rfl, ?_⟩
  · rw [e1, readBytes_page hm, h.cfg, h.timeout]
  · simpa [h.env, Env.afterAnswers_add] using ha'

end Running

/-- The raw bytes the sequencer's four values encode to (R112, R113, R263, R264, R267, R268). -/
theorem own_values {c : Config} {m d : FieldEntry} (hm : c.params.find c.params.fMarker = some m)
    (hd : c.params.find c.params.fName = some d) :
    encodeValue c.params.strPad m.width m.codec (.int 0) = .ok [0x00] ∧
    encodeValue c.params.strPad m.width m.codec (.int 1) = .ok [0x01] ∧
    encodeValue c.params.strPad d.width d.codec (.bytes flashFailText) =
      .ok (flashFailText ++ [c.params.strPad, c.params.strPad]) ∧
    encodeValue c.params.strPad d.width d.codec (.bytes notReadyText) =
      .ok (notReadyText ++ [c.params.strPad, c.params.strPad, c.params.strPad]) := by
  obtain ⟨⟨m', em, wm, cm⟩, -, -, ⟨d', ed, wd, cd⟩⟩ := own_fields_present c
  rw [hm] at em; cases em
  rw [hd] at ed; cases ed
  rw [wm, cm, wd, cd]
  exact ⟨rfl, rfl, rfl, rfl⟩

/-- The eight steps in a row (R260, R261). -/
theorem flashSteps_ok {fw : List Byte} {m d : FieldEntry} {s t1 t2 t3 t4 t5 t6 t7 t8 : State}
    (hm : s.cfg.params.find s.cfg.params.fMarker = some m) (hd : s.cfg.params.find s.cfg.params.fName = some d)
    (e1 : selectChannel s.opnd.chan (s.setSeqStep 1) = .ok () t1) (c1 : t1.cfg = s.cfg)
    (e2 : setField m (.int 0) (t1.setSeqStep 2) = .ok () t2) (c2 : t2.cfg = s.cfg)
    (e3 : setField d (.bytes flashFailText) (t2.setSeqStep 3) = .ok () t3)
    (e4 : resetVersion (t3.setSeqStep 4) = .ok () t4) (c4 : t4.cfg = s.cfg)
    (e5 : writeFlash s.cfg.params.fwBase.toNat fw (t4.setSeqStep 5) = .ok () t5) (c5 : t5.cfg = s.cfg)
    (e6 : setField d (.bytes notReadyText) (t5.setSeqStep 6) = .ok () t6) (c6 : t6.cfg = s.cfg)
    (e7 : setField m (.int 1) (t6.setSeqStep 7) = .ok () t7) (e8 : exitSession (t7.setSeqStep 8) = .ok () t8) :
    flashSteps fw s = .ok () t8 := by
  have look : ∀ {t : State} {k : BitVec 4} {i : Byte} {e : FieldEntry}, t.cfg = s.cfg →
      s.cfg.params.find i = some e → lookup i (t.setSeqStep k) = .ok e (t.setSeqStep k) :=
    fun {t k i e} hc he => lookup_of (by rw [State.setSeqStep_cfg, hc]; exact he)
  have own : ∀ {t : State} {k : BitVec 4} {i : Params → Byte} {e : FieldEntry} {v : Value}, t.cfg = s.cfg →
      s.cfg.params.find (i s.cfg.params) = some e →
      setOwnField (i (t.setSeqStep k).cfg.params) v (t.setSeqStep k) = setField e v (t.setSeqStep k) :=
    fun {t k i e v} hc he => by rw [State.setSeqStep_cfg, hc, setOwnField, look hc he, Ret.bind_ok]
  have s1 : seqStepDo 1 (fun t => selectChannel t.opnd.chan t) s = .ok () t1 := e1
  have s2 : seqStepDo 2 (fun t => setOwnField t.cfg.params.fMarker (.int 0) t) t1 = .ok () t2 :=
    (own (i := Params.fMarker) c1 hm).trans e2
  have s3 : seqStepDo 3 (fun t => setOwnField t.cfg.params.fName (.bytes flashFailText) t) t2 = .ok () t3 :=
    (own (i := Params.fName) c2 hd).trans e3
  have s4 : seqStepDo 4 resetVersion t3 = .ok () t4 := e4
  have s5 : seqStepDo 5 (fun t => writeFlash t.cfg.params.fwBase.toNat fw t) t4 = .ok () t5 := by
    rw [← e5, seqStepDo, State.setSeqStep_cfg, c4]
  have s6 : seqStepDo 6 (fun t => setOwnField t.cfg.params.fName (.bytes notReadyText) t) t5 = .ok () t6 :=
    (own (i := Params.fName) c5 hd).trans e6
  have s7 : seqStepDo 7 (fun t => setOwnField t.cfg.params.fMarker (.int 1) t) t6 = .ok () t7 :=
    (own (i := Params.fMarker) c6 hm).trans e7
  rw [flashSteps, s1, Ret.bind_ok, s2, Ret.bind_ok, s3, Ret.bind_ok, s4, Ret.bind_ok, s5, Ret.bind_ok, s6, Ret.bind_ok,
    s7, Ret.bind_ok]
  exact e8

end Sys2Proof.Machine
end

