-- ==== Sys2Proof/Tests/Slice0.lean ====
section
/-! SUPPORT. The model's own tests: ill-formed terms refused, every constructor's word decoded, one step of each instruction on a small state, and a concrete state and operands for the hypotheses of each obligation. The reference parameters are those of 00_scope.md R8 and 43_settings_cache.md R223; expected results come from the rules' worked examples and 95_test_vectors.md. -/

namespace Sys2Proof.Tests

open Sys2Proof Sys2Proof.Machine

-- The theorems that the kernel evaluates wait for one another; one after the other they need far fewer threads.
set_option Elab.async false

/-! ## The reference instance (R8, R223) -/

def refParams : Params :=
  { mspP0 := 0x24, mspP1 := 0x58, mspDirReq := 0x3C, mspPoly := 0xD5, mspMaxFrame := 264, escLocal := 0x2E
    cmdDeviceInit := 0x37, cmdDeviceRead := 0x3A, cmdDeviceWrite := 0x3B, cmdExit := 0x34
    fwBase := 0x1000, settingsBase := 0x7C00
    fieldTable := [⟨0, "marker", 0, 1, .raw⟩, ⟨1, "layout_version", 1, 1, .raw⟩, ⟨2, "fw_major", 3, 1, .raw⟩,
      ⟨3, "fw_minor", 4, 1, .raw⟩, ⟨4, "device_name", 5, 12, .string⟩, ⟨5, "kv", 26, 1, .scaled 40 1 20⟩,
      ⟨6, "advance_level", 23, 1, .scaled 15 2 0⟩, ⟨7, "current_limit", 44, 1, .scaled 2 1 0⟩,
      ⟨8, "test_bounded", 30, 1, .bounded 0 11 none⟩, ⟨9, "test_sentinel", 43, 1, .bounded 70 140 (some 255)⟩,
      ⟨10, "tune", 46, 128, .string⟩, ⟨11, "test_word", 172, 2, .raw⟩]
    fMarker := 0, fVerMajor := 2, fVerMinor := 3, fName := 4, strPad := 0x00, blArch := .arm
    timeoutType := .countable }

theorem test_refParams_wf : refParams.wf = true := by decide

def refConfig : Config := ⟨refParams, test_refParams_wf⟩

/-! ## Well-formedness: an ill-formed term for each check -/

theorem test_wf_named_ack : (Instr.ackUnknown 0x02).wf = false := by decide
theorem test_wf_other_ack : (Instr.ackUnknown 0x01).wf = true := by decide
theorem test_wf_max_frame : { refParams with mspMaxFrame := 8 }.wf = false := by decide
theorem test_wf_settings_base : { refParams with settingsBase := 0xFF01 }.wf = false := by decide
theorem test_wf_same_index : { refParams with fieldTable := ⟨5, "twin", 27, 1, .raw⟩ :: refParams.fieldTable }.wf = false := by
  decide
theorem test_wf_no_marker : { refParams with fMarker := 99 }.wf = false := by decide
theorem test_wf_major_codec : { refParams with fVerMajor := 5 }.wf = false := by decide
theorem test_wf_minor_width : { refParams with fVerMinor := 11 }.wf = false := by decide
theorem test_wf_name_width : { refParams with fName := 10 }.wf = false := by decide
theorem test_wf_entry_no_width : (FieldEntry.mk 20 "x" 3 0 .raw).wf = false := by decide
theorem test_wf_entry_past_174 : (FieldEntry.mk 20 "x" 173 2 .raw).wf = false := by decide
theorem test_wf_entry_to_174 : (FieldEntry.mk 20 "x" 172 2 .raw).wf = true := by decide
theorem test_wf_raw_width : (FieldEntry.mk 20 "x" 0 4 .raw).wf = false := by decide
theorem test_wf_bounded_width : (FieldEntry.mk 20 "x" 0 4 (.bounded 0 1 none)).wf = false := by decide
theorem test_wf_sentinel : (FieldEntry.mk 20 "x" 0 1 (.bounded 0 1 (some 256))).wf = false := by decide
theorem test_wf_scaled_num : (FieldEntry.mk 20 "x" 0 1 (.scaled 0 1 0)).wf = false := by decide
theorem test_wf_scaled_den : (FieldEntry.mk 20 "x" 0 1 (.scaled 1 0 0)).wf = false := by decide
theorem test_wf_scaled_high : (FieldEntry.mk 20 "x" 0 4 (.scaled 1 1 0)).wf = false := by decide
theorem test_wf_scaled_low : (FieldEntry.mk 20 "x" 0 1 (.scaled 1 1 (-2147483649))).wf = false := by decide
theorem test_wf_commands : { refParams with cmdExit := 0x37 }.cmdsDistinct = false := by decide

/-! ## Decoding: every constructor's word, written out from the tables of the spec -/

theorem test_decode_hostOp :
    decode refParams .hostOp [0x01] = .ok .crc8 ∧
    decode refParams .hostOp [0x02] = .ok .crc16x ∧
    decode refParams .hostOp [0x03] = .ok .crc16r ∧
    decode refParams .hostOp [0x04] = .ok .mspTransact ∧
    decode refParams .hostOp [0x05] = .ok .e4wSend ∧
    decode refParams .hostOp [0x06] = .ok .readFlash ∧
    decode refParams .hostOp [0x07] = .ok .writeFlash ∧
    decode refParams .hostOp [0x08] = .ok .fetch ∧
    decode refParams .hostOp [0x09] = .ok .getField ∧
    decode refParams .hostOp [0x0A] = .ok .setField ∧
    decode refParams .hostOp [0x0B] = .ok .flashAll ∧
    decode refParams .hostOp [0x0C] = .ok .selectChannel ∧
    decode refParams .hostOp [0x0D] = .ok .exitSession ∧
    decode refParams .hostOp [0x00] = .ok .reservedOp0 ∧
    decode refParams .hostOp [0x0E] = .ok .reservedOpE ∧
    decode refParams .hostOp [0x0F] = .ok .reservedOpF := by
  decide

theorem test_decode_valueKind :
    decode refParams .valueKind [0x00] = .ok .vkindInt ∧
    decode refParams .valueKind [0x01] = .ok .vkindDisabled ∧
    decode refParams .valueKind [0x02] = .ok .vkindBytes ∧
    decode refParams .valueKind [0x03] = .ok .vkindReserved := by
  decide

theorem test_decode_ack :
    decode refParams .ack [0x00] = .ok .ackOk ∧
    decode refParams .ack [0x02] = .ok .ackInvalidCmd ∧
    decode refParams .ack [0x03] = .ok .ackInvalidCrc ∧
    decode refParams .ack [0x04] = .ok .ackVerifyError ∧
    decode refParams .ack [0x08] = .ok .ackInvalidChannel ∧
    decode refParams .ack [0x09] = .ok .ackInvalidParam ∧
    decode refParams .ack [0x0F] = .ok .ackGeneralError ∧
    decode refParams .ack [0x0A] = .ok (.ackUnknown 0x0A) := by
  decide

theorem test_decode_blCmd :
    decode refParams .blCmd [0x00] = .ok .blRun ∧
    decode refParams .blCmd [0x01] = .ok .blProgramFlash ∧
    decode refParams .blCmd [0x02] = .ok .blEraseFlash ∧
    decode refParams .blCmd [0x03] = .ok .blVerifyOrOther3 ∧
    decode refParams .blCmd [0x04] = .ok .blVerifyOrOther4 ∧
    decode refParams .blCmd [0x05] = .ok .blProgramEeprom ∧
    decode refParams .blCmd [0x06] = .ok .blReadSram ∧
    decode refParams .blCmd [0xFD] = .ok .blKeepAlive ∧
    decode refParams .blCmd [0xFE] = .ok .blSetBuffer ∧
    decode refParams .blCmd [0xFF] = .ok .blSetAddress := by
  decide

theorem test_decode_e4wRequest :
    decode refParams .e4wRequest [0x37] = .ok .e4wDeviceInit ∧
    decode refParams .e4wRequest [0x3A] = .ok .e4wDeviceRead ∧
    decode refParams .e4wRequest [0x3B] = .ok .e4wDeviceWrite ∧
    decode refParams .e4wRequest [0x34] = .ok .e4wExit := by
  decide

theorem test_decode_marker :
    decode refParams .marker [0x00] = .ok .markerInvalid ∧
    decode refParams .marker [0x01] = .ok .markerValid := by
  decide

theorem test_decode_status :
    decode refParams .status [0x00] = .ok .statusOk ∧
    decode refParams .status [0x10] = .ok .statusBadPreamble ∧
    decode refParams .status [0x11] = .ok .statusLengthMismatch ∧
    decode refParams .status [0x12] = .ok .statusCrcMismatch ∧
    decode refParams .status [0x13] = .ok .statusShortRead ∧
    decode refParams .status [0x14] = .ok .statusShortWrite ∧
    decode refParams .status [0x20] = .ok .statusCommandError ∧
    decode refParams .status [0x30] = .ok .statusSequenceError ∧
    decode refParams .status [0x31] = .ok .statusChannelInitError ∧
    decode refParams .status [0x40] = .ok .statusNotConnected ∧
    decode refParams .status [0x41] = .ok .statusNoChannel ∧
    decode refParams .status [0x42] = .ok .statusPayloadTooLong ∧
    decode refParams .status [0x43] = .ok .statusPayloadEmpty ∧
    decode refParams .status [0x44] = .ok .statusAddressRange ∧
    decode refParams .status [0x45] = .ok .statusUnknownField ∧
    decode refParams .status [0x46] = .ok .statusValueUnrepresentable ∧
    decode refParams .status [0x47] = .ok .statusUnknownOp ∧
    decode refParams .status [0x48] = .ok .statusBadValueKind := by
  decide

theorem test_decode_tableRow :
    decode refParams .tableRow [42] = .ok .mspFrame ∧
    decode refParams .tableRow [43] = .ok .e4wRequestFrame ∧
    decode refParams .tableRow [44] = .ok .e4wReplyFrame ∧
    decode refParams .tableRow [45] = .ok .settingsBlock ∧
    decode refParams .tableRow [46] = .ok .fieldTableEntry ∧
    decode refParams .tableRow [47] = .ok .codecRaw ∧
    decode refParams .tableRow [48] = .ok .codecBounded ∧
    decode refParams .tableRow [49] = .ok .codecScaled ∧
    decode refParams .tableRow [50] = .ok .codecString ∧
    decode refParams .tableRow [55] = .ok .e4wLengthByte := by
  decide

theorem test_decode_diag :
    decode refParams .diag [0x46, 0x4C, 0x41, 0x53, 0x48, 0x20, 0x46, 0x41, 0x49, 0x4C] = .ok .diagFlashFail ∧
    decode refParams .diag [0x4E, 0x4F, 0x54, 0x20, 0x52, 0x45, 0x41, 0x44, 0x59] = .ok .diagNotReady := by
  decide

theorem test_decode_refuses :
    decode refParams .hostOp [0x10] = .error (.unassigned .hostOp 0x10) ∧
    decode refParams .valueKind [0x04] = .error (.unassigned .valueKind 0x04) ∧
    decode refParams .blCmd [0x07] = .error (.unassigned .blCmd 0x07) ∧
    decode refParams .blCmd [0xFC] = .error (.unassigned .blCmd 0xFC) ∧
    decode refParams .marker [0x02] = .error (.unassigned .marker 0x02) ∧
    decode refParams .status [0x15] = .error (.unassigned .status 0x15) ∧
    decode refParams .diag [0x46] = .error .noDiagString ∧ decode refParams .hostOp [] = .error .noByte ∧
    decode refParams .hostOp [0x01, 0x00] = .error (.extraBytes .hostOp) := by
  decide

/-! ## One step of each instruction -/

/-- Between operations, stream attached, nothing on it. -/
def idle : State := { State.resetWith refConfig with linkUp := true }

/-- The same with a channel selected. -/
def ready : State := { idle with chanValid := true }

/-- The peer takes every write whole and these bytes arrive, read by read. -/
def arriving (s : State) (xs : List (List Byte)) : State :=
  { s with env := { accepts := [300, 300, 300], line := [], arrivals := xs, abandon := [] } }

/-- Something of the next state, if there is one. -/
def after {α : Type} (f : State → α) (o : Host.Outcome State Fault Refusal) : Option α :=
  match o with
  | .next t => some (f t)
  | _ => none

/-- The request bytes of each write so far. -/
def written (s : State) : List (List Byte) := s.events.filterMap fun
  | .write _ bs _ => some bs
  | .read _ _ _ _ => none

/-- The nine ASCII bytes "123456789". -/
def digits : State :=
  { idle with
      outbuf := [0x31, 0x32, 0x33, 0x34, 0x35, 0x36, 0x37, 0x38, 0x39]
      opnd := { idle.opnd with len := 9, poly := 0xD5 } }

theorem test_crc8 : after (·.res.crc) (exec .crc8 digits) = some 0x00BC := by decide +kernel
theorem test_crc16x : after (·.res.crc) (exec .crc16x digits) = some 0x31C3 := by decide +kernel
theorem test_crc16r : after (·.res.crc) (exec .crc16r digits) = some 0xBB3D := by decide +kernel

/-- R148 (e): the order of the bytes matters. -/
theorem test_crc_order :
    crc16xOf [0x01, 0x02] 0 = 0x1373 ∧ crc16xOf [0x02, 0x01] 0 = 0x7643 ∧ crc16rOf [0x01, 0x02] = 0x5180 ∧
    crc16rOf [0x02, 0x01] = 0xA0C0 ∧ crc8Of [0x01, 0x02] 0xD5 = 0x74 ∧ crc8Of [0x02, 0x01] 0xD5 = 0xC3 := by
  decide +kernel

/-- The worked example of R160. -/
def mspExample : State :=
  arriving { idle with opnd := { idle.opnd with cmd := 0x0001, cap := 16 } }
    [[0x24, 0x58, 0x3E, 0x00, 0x01, 0x00, 0x03, 0x00, 0x00, 0x01, 0x2D, 0x36]]

theorem test_mspTransact :
    after (fun t => (t.res.status, t.inbuf, written t)) (exec .mspTransact mspExample) =
      some (0x00, [0x00, 0x01, 0x2D], [[0x24, 0x58, 0x3C, 0x00, 0x01, 0x00, 0x00, 0x00, 0x45]]) := by
  decide +kernel

/-- R165: an empty read, which is what a timeout gives. -/
theorem test_mspTransact_empty :
    after (·.res.status) (exec .mspTransact (arriving mspExample [[]])) = some 0x10 := by decide +kernel

theorem test_mspFrame :
    after (fun t => (t.inbuf, written t)) (exec .mspFrame mspExample) =
      some ([0x00, 0x01, 0x2D], [[0x24, 0x58, 0x3C, 0x00, 0x01, 0x00, 0x00, 0x00, 0x45]]) := by
  decide +kernel

/-- The worked example of R180: the high byte of `A_CMD` is ignored. -/
def e4wExample : State :=
  arriving { idle with opnd := { idle.opnd with cmd := 0xFF3A, addr := 0x7C00, len := 1 }, outbuf := [0x04] }
    [[0x2F, 0x3A, 0x7C, 0x00, 0x04], [0x01, 0x02, 0x00, 0x01, 0x00, 0xA7, 0x34]]

theorem test_e4wSend :
    after (fun t => (t.res.status, t.inbuf, written t)) (exec .e4wSend e4wExample) =
      some (0x00, [0x01, 0x02, 0x00, 0x01], [[0x2E, 0x3A, 0x7C, 0x00, 0x01, 0x04, 0x81, 0x19]]) := by
  decide +kernel

/-- R187: a header that comes short is dropped, and no second read of it is made. -/
theorem test_e4wSend_short :
    after (fun t => (t.res.status, t.events.length)) (exec .e4wSend (arriving e4wExample [[0x2F, 0x3A]])) =
      some (0x13, 2) := by
  decide +kernel

theorem test_e4wRequestFrame :
    after (fun t => (written t, t.events.length)) (exec .e4wRequestFrame e4wExample) =
      some ([[0x2E, 0x3A, 0x7C, 0x00, 0x01, 0x04, 0x81, 0x19]], 1) := by
  decide +kernel

theorem test_e4wReplyFrame :
    after (fun t => (t.inbuf, written t)) (exec .e4wReplyFrame e4wExample) =
      some ([0x01, 0x02, 0x00, 0x01], []) := by
  decide +kernel

/-- R34, R343: bytes no read took head the next read, and what the reply does not hold stays on the line. -/
theorem test_e4wReplyFrame_line :
    after (fun t => (t.inbuf, t.env.line)) (exec .e4wReplyFrame
      { idle with env := { accepts := [], line := [0x2F, 0x3A, 0x7C, 0x00, 0x04, 0x01, 0x02]
                           arrivals := [[], [0x00, 0x01, 0x00, 0xA7, 0x34, 0x99]], abandon := [] } }) =
      some ([0x01, 0x02, 0x00, 0x01], [0x99]) := by
  decide +kernel

/-- R343: the host drains a stale byte and one that came late; the next read begins with what arrives after them. A drain of one byte leaves the other. -/
theorem test_drain :
    (let s : State :=
      { e4wExample with
          inputs := [.drain 9]
          env := { e4wExample.env with line := [0x55], arrivals := [0x66] :: e4wExample.env.arrivals } }
     after (fun t => (t.env.line, t.events, after (fun u => (u.res.status, u.inbuf)) (exec .e4wSend t))) (step s) =
       some ([], [], some (0x00, [0x01, 0x02, 0x00, 0x01])) ∧
     after (fun t => t.env.line) (step { s with inputs := [.drain 1] }) = some [0x66]) := by
  decide +kernel

/-- R332: an operation abandoned at its third stream call, and one of the next session at its first. -/
theorem test_abandoned_twice :
    after (fun t => (t.events.length, t.env.abandon,
        after (fun u => (u.events.length, u.env.abandon)) (exec .e4wSend { t with opnd := e4wExample.opnd })))
      (exec .e4wSend { e4wExample with env := { e4wExample.env with abandon := [2, 0] } }) =
      some (2, [0], some (2, [])) := by
  decide +kernel

/-- R190's worked example. -/
def readExample : State :=
  arriving { ready with opnd := { ready.opnd with addr := 0x7C00, len := 4 } }
    [[0x2F, 0x3A, 0x7C, 0x00, 0x04], [0x01, 0x02, 0x00, 0x01, 0x00, 0xA7, 0x34]]

theorem test_readFlash :
    after (fun t => (t.inbuf, t.res.len, t.res.xfer)) (exec .readFlash readExample) =
      some ([0x01, 0x02, 0x00, 0x01], 4, 4) := by
  decide +kernel

theorem test_e4wDeviceRead :
    after (fun t => (t.inbuf, written t)) (exec .e4wDeviceRead readExample) =
      some ([0x01, 0x02, 0x00, 0x01], [[0x2E, 0x3A, 0x7C, 0x00, 0x01, 0x04, 0x81, 0x19]]) := by
  decide +kernel

/-- R194's worked example: the headers of the three chunks of 600 bytes at address 0, and the count. -/
def writeExample : State :=
  arriving { ready with opnd := { ready.opnd with len := 600 }, outbuf := List.replicate 600 0x11 }
    (List.replicate 3 (Reply.mk 0x2F 0x3B 0x0000 [0x00]).reads).flatten

theorem test_writeFlash :
    after (fun t => ((written t).map (List.take 5), t.res.xfer)) (exec .writeFlash writeExample) =
      some ([[0x2E, 0x3B, 0x00, 0x00, 0x00], [0x2E, 0x3B, 0x01, 0x00, 0x00], [0x2E, 0x3B, 0x02, 0x00, 0x58]], 600) := by
  decide +kernel

theorem test_e4wDeviceWrite :
    after (fun t => (written t).map (List.take 7)) (exec .e4wDeviceWrite
      { arriving ready (Reply.mk 0x2F 0x3B 0x7C00 [0x00]).reads with
          opnd := { ready.opnd with addr := 0x7C00, len := 2 }, outbuf := [0xAA, 0xBB] }) =
      some [[0x2E, 0x3B, 0x7C, 0x00, 0x02, 0xAA, 0xBB]] := by
  decide +kernel

/-- R200's first reply. -/
def selectExample : State :=
  arriving idle [[0x2F, 0x37, 0x00, 0x00, 0x04], [0x06, 0x1F, 0x33, 0x64, 0x00, 0x75, 0x63]]

theorem test_selectChannel :
    after (fun t => (t.res.status, t.chanValid, written t)) (exec .selectChannel selectExample) =
      some (0x00, true, [[0x2E, 0x37, 0x00, 0x00, 0x01, 0x00, 0xED, 0xA0]]) := by
  decide +kernel

/-- R200's second reply: `InvalidChannel`. -/
def selectRefused : State := arriving ready [[0x2F, 0x37, 0x00, 0x00, 0x01], [0x00, 0x08, 0xB5, 0xEA]]

theorem test_selectChannel_refused :
    after (fun t => (t.res.status, t.res.ack, t.chanValid)) (exec .selectChannel selectRefused) =
      some (0x20, 0x08, false) := by
  decide +kernel

/-- R341: the same transaction as a bare one leaves `CHAN_VALID` alone. -/
theorem test_e4wDeviceInit :
    after (fun t => (t.res.ack, t.chanValid)) (exec .e4wDeviceInit selectRefused) = some (0x08, true) := by
  decide +kernel

/-- R202's worked example. -/
def exitExample : State := arriving ready [[0x2F, 0x34, 0x00, 0x00, 0x01], [0x00, 0x00, 0xFA, 0x02]]

theorem test_exitSession :
    after (fun t => (t.res.status, t.chanValid, written t)) (exec .exitSession exitExample) =
      some (0x00, false, [[0x2E, 0x34, 0x00, 0x00, 0x01, 0x00, 0x03, 0x72]]) := by
  decide +kernel

theorem test_e4wExit :
    after (fun t => (t.res.status, t.chanValid)) (exec .e4wExit exitExample) = some (0x00, true) := by decide +kernel

/-- R230's request; the peer then says nothing, and the cache stays empty. -/
theorem test_fetch :
    after (fun t => (t.res.status, t.cached, written t)) (exec .fetch (arriving ready [[]])) =
      some (0x13, false, [[0x2E, 0x3A, 0x7C, 0x00, 0x01, 0x00, 0xC1, 0x9D]]) := by
  decide +kernel

theorem test_settingsBlock :
    after (fun t => (t.res.status, t.events)) (exec .settingsBlock { idle with cached := true }) = some (0x00, []) := by
  decide +kernel

/-- A populated mirror whose byte 26 is 0x0A. -/
def kvPage : State :=
  { ready with cached := true, mem := [(26, 0x0A)], opnd := { ready.opnd with field := 5, value := 420 } }

theorem test_getField : after (fun t => (t.res.vkind, t.res.value)) (exec .getField kvPage) = some (0, 420) := by
  decide +kernel

/-- R226: a raw value equal to the sentinel reads as `DISABLED`. -/
theorem test_getField_disabled :
    after (fun t => (t.res.vkind, t.res.value)) (exec .getField
      { kvPage with mem := [(43, 0xFF)], opnd := { kvPage.opnd with field := 9 } }) = some (1, 0) := by
  decide +kernel

/-- R232, R338: the write back is cut short, and the new byte stays in the mirror. -/
theorem test_setField :
    after (fun t => (t.res.status, readByte t.mem 26, readByte t.mem 27)) (exec .setField
      { kvPage with mem := [(27, 0x77)]
                    env := { accepts := [1], line := [], arrivals := [], abandon := [] } }) =
      some (0x14, 0x0A, 0x77) := by
  decide +kernel

/-- R227: below the offset there is no raw value. -/
theorem test_setField_unrepresentable :
    after (·.res.status) (exec .setField { kvPage with opnd := { kvPage.opnd with value := 19 } }) = some 0x46 := by
  decide +kernel

theorem test_fieldTableEntry :
    after (·.res.status) (exec .fieldTableEntry kvPage) = some 0x00 ∧
    after (·.res.status) (exec .fieldTableEntry { kvPage with opnd := { kvPage.opnd with field := 12 } }) = some 0x45 := by
  decide +kernel

/-- R227: 439 lies between the images of 10 and 11, and is rounded down to 420. -/
theorem test_codecScaled :
    after (·.res.value) (exec .codecScaled { kvPage with opnd := { kvPage.opnd with value := 439 } }) = some 420 := by
  decide +kernel

/-- R225's example: two bytes, low byte first. -/
theorem test_codecRaw :
    encodeValue 0x00 2 .raw (.int 0x1234) = .ok [0x34, 0x12] ∧
    after (·.res.value) (exec .codecRaw { kvPage with opnd := { kvPage.opnd with field := 11, value := 0x1234 } }) =
      some 0x1234 := by
  decide +kernel

/-- R226: 200 lies outside the declared [70,140] and is stored. -/
theorem test_codecBounded :
    after (·.res.value) (exec .codecBounded { kvPage with opnd := { kvPage.opnd with field := 9, value := 200 } }) =
      some 200 := by
  decide +kernel

/-- R229: a shorter text is padded to the width. -/
theorem test_codecString :
    after (·.inbuf) (exec .codecString
      { kvPage with opnd := { kvPage.opnd with field := 4, vkind := 2, len := 2 }, outbuf := [0x41, 0x42] }) =
      some [0x41, 0x42, 0, 0, 0, 0, 0, 0, 0, 0, 0, 0] := by
  decide +kernel

/-- A write back that is cut short: what the rows of the sequencer's fields leave in the mirror. -/
def cutShort : State :=
  { kvPage with mem := [(0, 0x02)], env := { accepts := [1], line := [], arrivals := [], abandon := [] } }

theorem test_markers :
    after (fun t => readByte t.mem 0) (exec .markerInvalid cutShort) = some 0x00 ∧
    after (fun t => readByte t.mem 0) (exec .markerValid cutShort) = some 0x01 := by
  decide +kernel

theorem test_diagnostics :
    after (fun t => readBytes t.mem 5 12) (exec .diagFlashFail cutShort) =
      some [0x46, 0x4C, 0x41, 0x53, 0x48, 0x20, 0x46, 0x41, 0x49, 0x4C, 0x00, 0x00] ∧
    after (fun t => readBytes t.mem 5 12) (exec .diagNotReady cutShort) =
      some [0x4E, 0x4F, 0x54, 0x20, 0x52, 0x45, 0x41, 0x44, 0x59, 0x00, 0x00, 0x00] := by
  decide +kernel

/-- R262, R293: a refused select inside FLASH_ALL. -/
theorem test_flashAll_step1 :
    after (fun t => (t.res.status, t.res.cause, t.res.step, t.res.ack, t.chanValid)) (exec .flashAll selectRefused) =
      some (0x31, 0x20, 1, 0x08, false) := by
  decide +kernel

/-- R263, R293: step 2's write back is cut short; the mirror's marker is 0 and the channel stays selected. -/
theorem test_flashAll_step2 :
    after (fun t => (t.res.status, t.res.cause, t.res.step, readByte t.mem 0, t.chanValid)) (exec .flashAll
      { selectExample with cached := true, mem := [(0, 0x01)]
                           env := { selectExample.env with accepts := [8, 262] } }) =
      some (0x30, 0x14, 2, 0x00, true) := by
  decide +kernel

theorem test_reserved :
    after (·.res.status) (exec .reservedOp0 idle) = some 0x47 ∧ after (·.res.status) (exec .reservedOpE idle) = some 0x47 ∧
    after (·.res.status) (exec .reservedOpF idle) = some 0x47 := by
  decide +kernel

theorem test_valueKinds :
    [Instr.vkindInt, .vkindDisabled, .vkindBytes, .vkindReserved].map (fun i => after (·.opnd.vkind) (exec i idle)) =
      [some 0, some 1, some 2, some 3] := by
  decide +kernel

theorem test_acks :
    [Instr.ackOk, .ackInvalidCmd, .ackInvalidCrc, .ackVerifyError, .ackInvalidChannel, .ackInvalidParam,
      .ackGeneralError, .ackUnknown 0x7F].map (fun i => after (fun t => (t.res.status, t.res.ack)) (exec i idle)) =
      [some (0x00, 0x00), some (0x20, 0x02), some (0x20, 0x03), some (0x20, 0x04), some (0x20, 0x08), some (0x20, 0x09),
       some (0x20, 0x0F), some (0x20, 0x7F)] := by
  decide +kernel

theorem test_lengthByte :
    after (·.inbuf) (exec .e4wLengthByte { idle with opnd := { idle.opnd with len := 256 } }) = some [0x00] ∧
    after (·.res.status) (exec .e4wLengthByte { idle with opnd := { idle.opnd with len := 257 } }) = some 0x42 := by
  decide +kernel

theorem test_statuses :
    [Instr.statusOk, .statusBadPreamble, .statusLengthMismatch, .statusCrcMismatch, .statusShortRead, .statusShortWrite,
      .statusCommandError, .statusSequenceError, .statusChannelInitError, .statusNotConnected, .statusNoChannel,
      .statusPayloadTooLong, .statusPayloadEmpty, .statusAddressRange, .statusUnknownField, .statusValueUnrepresentable,
      .statusUnknownOp, .statusBadValueKind].map (fun i => after (·.res.status) (exec i idle)) =
      [some 0x00, some 0x10, some 0x11, some 0x12, some 0x13, some 0x14, some 0x20, some 0x30, some 0x31, some 0x40,
       some 0x41, some 0x42, some 0x43, some 0x44, some 0x45, some 0x46, some 0x47, some 0x48] := by
  decide +kernel

/-- R118: a code of the sub-protocol has no meaning in the core. -/
theorem test_bootloader :
    after (·.res.status) (exec .blRun idle) = none ∧ after (·.res.status) (exec .blSetAddress idle) = none := by
  decide +kernel

/-- A word placed where the next step fetches runs as the first instruction after reset. -/
theorem test_fetchWord :
    after (·.res.status) (step (State.reset.withFetchWord 8 0x0E)) = some 0x47 ∧
    after (·.res.status) (step (State.reset.withFetchWord 8 0x48)) = some 0x48 := by
  constructor <;> rfl

/-! ## A state and operands for the hypotheses of each obligation -/

/-- A peer that gives these replies. -/
def answering (rs : List Reply) : Env :=
  { accepts := List.replicate rs.length 263, line := [], arrivals := rs.flatMap Reply.reads, abandon := [] }

theorem answering_answers (rs : List Reply) (h : ∀ r ∈ rs, r.wf) : (answering rs).answers rs := by
  refine ⟨rfl, rfl, h, by simp [answering], ?_, List.prefix_rfl⟩
  intro n hn
  have := List.mem_replicate.1 (List.mem_of_mem_take hn)
  omega

/-- A reply with one payload byte, and one with a whole page. -/
def shortReply : Reply := ⟨0x2F, 0x3B, 0x7C00, [0x00]⟩
def pageReply : Reply := ⟨0x2F, 0x3A, 0x7C00, List.replicate 256 0xFF⟩

theorem pageReply_length : pageReply.payload.length = 256 := List.length_replicate

theorem shortReply_wf : shortReply.wf := ⟨by decide, by decide⟩

theorem pageReply_wf : pageReply.wf := by
  have := pageReply_length
  exact ⟨by omega, by omega⟩

/-- A machine that goes on, seen through `after`. -/
theorem goes_on {o : Host.Outcome State Fault Refusal} (h : after (fun _ => ()) o = some ()) : ∃ t, o = .next t := by
  cases o with
  | next t => exact ⟨t, rfl⟩
  | fault f => cases h
  | refused r => cases h

/-- An idle core with a channel and a peer that gives these replies. -/
def served (rs : List Reply) : State := { ready with env := answering rs }

theorem served_one : (served [shortReply]).env.answers [shortReply] :=
  answering_answers _ (by simpa using shortReply_wf)

theorem served_page : (served [pageReply]).env.answers [pageReply] :=
  answering_answers _ (by simpa using pageReply_wf)

theorem witness_DecodeEncodeAgree :
    refParams.cmdsDistinct = true ∧ decode refParams .ack [0x7F] = .ok (.ackUnknown 0x7F) ∧
      (Instr.ackUnknown 0x7F).wf = true ∧ encode refParams (.ackUnknown 0x7F) = (.ack, [0x7F]) := by
  decide

theorem witness_StepRunsDecoded :
    ({ idle with inputs := [.start] } : State).busy = false ∧ ({ idle with inputs := [.start] } : State).inputs = [.start] ∧
      ({ idle with inputs := [.present .status [0x48]] } : State).inputs = [.present .status [0x48]] ∧
      decode refParams .status [0x48] = .ok .statusBadValueKind := by
  decide

theorem witness_HostInputs :
    ({ idle with busy := true, inputs := [.present .ack [0x00]] } : State).inputs = [.present .ack [0x00]] ∧
    (TimeoutType.finite 3).has 3 = true ∧ (TimeoutType.finite 3).has 4 = false ∧
    ({ idle with busy := true, inputs := [.start] } : State).busy = true ∧
      ({ idle with busy := true, inputs := [.start] } : State).inputs = [.start] ∧
      ({ idle with inputs := [.operand .len 5] } : State).inputs = [.operand .len 5] ∧
      ({ idle with inputs := [.timeout 3] } : State).inputs = [.timeout 3] ∧
      ({ idle with inputs := [.outbuf [1]] } : State).inputs = [.outbuf [1]] ∧
      ({ idle with inputs := [.firmware [1]] } : State).inputs = [.firmware [1]] ∧
      ({ idle with inputs := [.link false] } : State).inputs = [.link false] ∧
      ({ idle with inputs := [.drain 3] } : State).inputs = [.drain 3] ∧ idle.inputs = [] := by
  decide

theorem witness_ResetSession : ({ kvPage with inputs := [.reset] } : State).inputs = [.reset] := by decide

/-- The first clause of `AbandonedOperation`: FLASH_ALL abandoned at the fourth stream call, in step 2, with a reset to come; and SELECT_CHANNEL. -/
theorem witness_AbandonedOperation_any :
    (let s : State := { selectExample with env := { selectExample.env with abandon := [3, 0] } }
     after (fun t => decide (t.env.abandon.length < s.env.abandon.length)) (exec .flashAll s) = some true) ∧
    (let s : State := { selectExample with env := { selectExample.env with abandon := [0] } }
     after (fun t => decide (t.env.abandon.length < s.env.abandon.length)) (exec .selectChannel s) = some true) := by
  decide +kernel

/-- Its second clause where the clauses meet: an operation of three events, with two calls let pass and with three. -/
theorem witness_AbandonedOperation_count :
    after (fun u => u.events.length) (exec .e4wSend e4wExample.undisturbed) = some 3 ∧ e4wExample.events = [] ∧
      after (fun t => (t.events.length, t.env.abandon))
        (exec .e4wSend { e4wExample with env := { e4wExample.env with abandon := [2, 7] } }) = some (2, [7]) ∧
      after (fun t => (t.events.length, t.env.abandon))
        (exec .e4wSend { e4wExample with env := { e4wExample.env with abandon := [3, 7] } }) = some (3, [0, 7]) := by
  decide +kernel

/-- Its last clause: each of the three stream calls at which the operation can be abandoned. -/
theorem witness_AbandonedOperation : ∀ k, k < 3 →
    let s : State := { e4wExample with env := { e4wExample.env with abandon := [k, 5] } }
    s.linkUp = true ∧ 1 ≤ s.outBytes.length ∧ s.outBytes.length ≤ 256 ∧ s.env.line = [] ∧
      s.env.accepts = [300, 300, 300] ∧
      s.env.arrivals = [[0x2F, 0x3A, 0x7C, 0x00, 0x04], [0x01, 0x02, 0x00, 0x01, 0x00, 0xA7, 0x34]] ∧
      s.env.abandon = [k, 5] := by
  intro k _
  exact ⟨rfl, (by decide : 1 ≤ e4wExample.outBytes.length), (by decide : e4wExample.outBytes.length ≤ 256), rfl, rfl,
    rfl, rfl⟩

theorem witness_InvariantKept :
    ({ digits with inputs := [.operand .op 1] } : State).inv ∧
      ∃ t, step { digits with inputs := [.operand .op 1] } = .next t := by
  refine ⟨⟨⟨List.Pairwise.nil, fun c hc => by cases hc⟩, rfl, rfl, ?_⟩, goes_on (by decide +kernel)⟩
  decide +kernel

theorem witness_EventsOnlyAppended :
    ∃ t, step { mspExample with inputs := [.start], opnd := { mspExample.opnd with op := 4 } } = .next t :=
  goes_on (by decide +kernel)

theorem witness_LinkDown :
    ({ idle with linkUp := false } : State).linkUp = false ∧
      ∃ t, exec .crc8 { idle with linkUp := false } = .next t :=
  ⟨rfl, _, rfl⟩

theorem witness_FaultsOnlyForFirmware :
    ({ idle with fw := [0x00] } : State).linkUp = true ∧ refParams.fwBase.toNat + idle.opnd.len.toNat ≤ 65536 ∧
      ({ idle with fw := [0x00] } : State).fw.length ≠ idle.opnd.len.toNat := by
  decide

theorem witness_BootloaderRowsRefused : (Instr.blSetAddress, (0xFF : Byte)) ∈ bootloaderRows := by decide

theorem witness_OthersAnswerNext :
    (∀ code, (Instr.flashAll, code) ∉ bootloaderRows) ∧ idle.fw.length = idle.opnd.len.toNat := by
  constructor
  · intro code h; simp [bootloaderRows] at h
  · decide

/-- For `OperationEnds` and `HostStateKept`. -/
theorem witness_OperationEnds_HostStateKept :
    (∀ k, (Instr.getField, k) ∉ valueKindRows) ∧ kvPage.env.abandon = [] ∧ ∃ t, exec .getField kvPage = .next t :=
  ⟨by intro k h; simp [valueKindRows] at h, rfl, _, rfl⟩

theorem witness_UnnamedResultsZero : Instr.crc8 ∈ operations ∧ ∃ t, exec .crc8 idle = .next t := ⟨by decide, _, rfl⟩

/-- For `CacheAndChannelFrame` and `ReservedBytesPreserved`. -/
theorem witness_CacheFrames :
    kvPage.cached = true ∧ kvPage.env.abandon = [] ∧ (∃ t, exec .crc8 kvPage = .next t) ∧ Instr.crc8 ∉ cacheInstrs ∧
      Instr.crc8 ∉ channelInstrs ∧ Instr.getField ≠ .fetch ∧ ∃ t, exec .getField kvPage = .next t :=
  ⟨rfl, rfl, ⟨_, rfl⟩, by decide, by decide, by decide, _, rfl⟩

theorem witness_Crc8SeesOneBit : (0xD5 : Byte).getLsbD 0 = true ∧ 0 < [(0x31 : Byte)].length ∧ 7 < 8 := by decide

theorem witness_Crc16SeesOneBit : 0 < [(0x31 : Byte)].length ∧ 7 < 8 := by decide

/-- Each clause at its boundary: 1, 256, 0 and 257. -/
theorem witness_LengthByte :
    (1 ≤ 1 ∧ 1 ≤ 256) ∧ (1 ≤ 256 ∧ 256 ≤ 256) ∧ idle.linkUp = true ∧ idle.opnd.len.toNat = 0 ∧
      256 < ({ idle with opnd := { idle.opnd with len := 257 } } : State).opnd.len.toNat := by
  decide

/-- For `MspRoundTrip` and `MspSeesOneBit` (a bit of the size field and one of the payload). -/
theorem witness_MspRoundTrip :
    let s := arriving idle [mspReply refParams 0x58 0x3E 0x00 0x0001 [0x2A]]
    s.linkUp = true ∧ s.opnd.len.toNat ≤ 65535 ∧ 9 + s.opnd.len.toNat ≤ refParams.mspMaxFrame ∧ s.env.abandon = [] ∧
      s.env.line = [] ∧ s.env.accepts = [300, 300, 300] ∧ 9 + s.opnd.len.toNat ≤ 300 ∧ [(0x2A : Byte)].length ≤ 65535 ∧
      9 + [(0x2A : Byte)].length ≤ refParams.mspMaxFrame ∧
      s.env.arrivals = [mspReply refParams 0x58 0x3E 0x00 0x0001 [0x2A]] := by
  exact ⟨rfl, by decide, by decide, rfl, rfl, rfl, by decide, by decide, by decide, rfl⟩

theorem witness_MspSeesOneBit : ∀ k, 3 ≤ k → k < 8 + [(0x2A : Byte)].length →
    let s := arriving idle [flipBit (mspReply refParams 0x58 0x3E 0x00 0x0001 [0x2A]) k 7]
    refParams.mspPoly.getLsbD 0 = true ∧ s.linkUp = true ∧ s.env.abandon = [] ∧ s.env.line = [] ∧
      s.env.accepts = [300, 300, 300] ∧
      s.env.arrivals = [flipBit (mspReply refParams 0x58 0x3E 0x00 0x0001 [0x2A]) k 7] := by
  intro k _ _
  exact ⟨by decide, rfl, rfl, rfl, rfl, rfl⟩

/-- One reply for each clause of `MspVerdict`, arriving in the state of `witness_MspRoundTrip`: nothing, a wrong first byte, too short, a wrong size, a wrong checksum, a good one. -/
theorem witness_MspVerdict :
    let rx := mspReply refParams 0x58 0x3E 0x00 0x0001 []
    [].head? ≠ some refParams.mspP0 ∧ [(0x00 : Byte)].head? ≠ some refParams.mspP0 ∧ (rx.take 8).length < 9 ∧
      (rx ++ [0x00]).length ≠ 9 + (((rx ++ [0x00]).getD 6 0).toNat + 256 * ((rx ++ [0x00]).getD 7 0).toNat) ∧
      crc8Of (((flipBit rx 8 0).drop 3).take 5) refParams.mspPoly ≠ (flipBit rx 8 0).getD 8 0 ∧
      crc8Of ((rx.drop 3).take 5) refParams.mspPoly = rx.getD 8 0 ∧ rx.length ≤ refParams.mspMaxFrame := by
  decide +kernel

/-- The least lengths refused, and the longest write that is short. -/
theorem witness_MspRefusals :
    65535 < ({ idle with opnd := { idle.opnd with len := 65536 } } : State).opnd.len.toNat ∧
      refParams.mspMaxFrame < 9 + ({ idle with opnd := { idle.opnd with len := 256 } } : State).opnd.len.toNat ∧
      ({ idle with env := { idle.env with accepts := [8] } } : State).env.accepts = [8] ∧
      8 < 9 + idle.opnd.len.toNat ∧ idle.linkUp = true ∧ idle.env.abandon = [] := by
  decide

/-- For `E4wSendAcknowledged` and `RequestRows`. -/
theorem witness_E4wSendAcknowledged :
    let s : State := { served [shortReply] with opnd := { ready.opnd with len := 1 } }
    s.linkUp = true ∧ 1 ≤ s.opnd.len.toNat ∧ s.opnd.len.toNat ≤ 256 ∧ s.env.answers [shortReply] ∧
      shortReply.payload.length = s.opnd.len.toNat :=
  ⟨rfl, by decide, by decide, served_one, rfl⟩

/-- Bytes left on the line before the verdicts of `MspVerdict` and `E4wVerdict`: a whole header with a byte too many. -/
theorem witness_Verdict_line :
    let s : State := { arriving idle [[], []] with
      env := { idle.env with line := shortReply.head ++ [0x55], accepts := [300, 300], arrivals := [[], [0x00]] } }
    (s.env.line ++ []).take 5 = shortReply.head ∧ (s.env.line ++ []).drop 5 ++ [0x00] = [0x55, 0x00] ∧
      (s.env.line ++ []).take refParams.mspMaxFrame = shortReply.head ++ [0x55] ∧ s.env.abandon = [] ∧
      s.env.arrivals = [[], [0x00]] := by
  decide

/-- The clauses of `E4wVerdict`: a short write, a short header, a short rest, a wrong checksum, an acknowledgement, a refusal. -/
theorem witness_E4wVerdict :
    let h := shortReply.head
    let b := shortReply.tail 0x00
    7 < 7 + ({ idle with opnd := { idle.opnd with len := 1 } } : State).opnd.len.toNat ∧ (h.take 4).length < 5 ∧
      h.length ≤ 5 ∧ (b.take 3).length < lenDec (h.getD 4 0) + 3 ∧ b.length ≤ lenDec (h.getD 4 0) + 3 ∧
      crc16xOf (h ++ (flipBit b 0 0).take 2) 0 ≠ halfOf ((flipBit b 0 0).getD 2 0) ((flipBit b 0 0).getD 3 0) ∧
      crc16xOf (h ++ b.take 2) 0 = halfOf (b.getD 2 0) (b.getD 3 0) ∧ b.getD 1 0 = 0 ∧
      (shortReply.tail 0x08).getD 1 0 ≠ 0 := by
  decide +kernel

theorem witness_E4wVerdict_state :
    let s : State := { arriving idle [shortReply.head, shortReply.tail 0x00] with opnd := { idle.opnd with len := 1 } }
    s.linkUp = true ∧ 1 ≤ s.opnd.len.toNat ∧ s.opnd.len.toNat ≤ 256 ∧ s.env.abandon = [] ∧ s.env.line = [] ∧
      s.env.accepts = [300, 300, 300] ∧ s.env.arrivals = [shortReply.head, shortReply.tail 0x00] :=
  ⟨rfl, by decide, by decide, rfl, rfl, rfl, rfl⟩

theorem witness_E4wAtMostThreeEvents : ∃ t, exec .selectChannel selectExample = .next t :=
  goes_on (by decide +kernel)

/-- The refusals of `RequestRows` and `FrameRows`: the lengths 0 and 257, with the stream attached. -/
theorem witness_lengths_refused :
    idle.linkUp = true ∧ idle.opnd.len.toNat = 0 ∧
      256 < ({ idle with opnd := { idle.opnd with len := 257 } } : State).opnd.len.toNat := by
  decide

theorem witness_E4wSeesOneBit : ∀ k, k ≤ shortReply.payload.length →
    let s : State := { arriving idle [shortReply.head, flipBit (shortReply.tail 0x00) k 7] with
      opnd := { idle.opnd with len := 1 } }
    s.linkUp = true ∧ 1 ≤ s.opnd.len.toNat ∧ s.opnd.len.toNat ≤ 256 ∧ shortReply.wf ∧ s.env.abandon = [] ∧
      s.env.line = [] ∧ s.env.accepts = [300, 300, 300] ∧
      s.env.arrivals = [shortReply.head, flipBit (shortReply.tail 0x00) k 7] := by
  intro k _
  exact ⟨rfl, (by decide : 1 ≤ (1 : Word).toNat), (by decide : (1 : Word).toNat ≤ 256), shortReply_wf, rfl, rfl, rfl, rfl⟩

theorem witness_AckRows :
    (Instr.ackOk, (0x00 : Byte)) ∈ [(Instr.ackOk, (0x00 : Byte)), (.ackUnknown 0x00, 0x00)] ∧
      (Instr.ackUnknown 0xFF).wf = true := by
  decide

/-- The clauses of `FrameRows`: lengths 1 and 256, a write taken whole and one cut short, and a reply of each kind. -/
theorem witness_FrameRows :
    (7 : Nat) < 7 + (1 : Word).toNat ∧ 7 + (1 : Word).toNat ≤ 8 ∧
      1 ≤ ({ idle with opnd := { idle.opnd with len := 1 } } : State).opnd.len.toNat ∧
      ({ idle with opnd := { idle.opnd with len := 256 } } : State).opnd.len.toNat ≤ 256 ∧ shortReply.wf ∧
      (arriving idle [shortReply.head, shortReply.tail 0x00]).env.arrivals = [shortReply.head, shortReply.tail 0x00] ∧
      (arriving idle [shortReply.head, shortReply.tail 0x08]).env.arrivals = [shortReply.head, shortReply.tail 0x08] ∧
      idle.linkUp = true ∧ (arriving idle []).env.abandon = [] ∧ (arriving idle []).env.line = [] :=
  ⟨by decide, by decide, by decide, by decide, shortReply_wf, rfl, rfl, rfl, rfl, rfl⟩

/-- A buffer up to the end of the address space. -/
theorem witness_ChunkArithmetic : 65535 + [(0x00 : Byte)].length ≤ 65536 ∧ 0 < chunkCount [(0x00 : Byte)].length := by
  decide

/-- For `ReadFlashCompletes` and `WriteFlashCompletes`: one byte at the top of the address space. -/
theorem witness_ReadFlashCompletes :
    let s : State := { served [shortReply] with opnd := { ready.opnd with addr := 0xFFFF, len := 1 } }
    s.linkUp = true ∧ s.chanValid = true ∧ s.opnd.addr.toNat + s.opnd.len.toNat ≤ 65536 ∧
      [shortReply].length = chunkCount s.opnd.len.toNat ∧
      (∀ i r, [shortReply][i]? = some r → r.payload.length = chunkLen s.opnd.len.toNat i) ∧
      s.env.answers ([shortReply] ++ []) := by
  refine ⟨rfl, rfl, by decide, by decide, ?_, served_one⟩
  intro i r h
  cases i with
  | zero => cases h; decide
  | succ i => simp at h

/-- The clauses of `TransferAdmission`: no channel, one byte past the top, nothing to move, an image past the top. -/
theorem witness_TransferAdmission :
    idle.linkUp = true ∧ idle.chanValid = false ∧ ready.linkUp = true ∧ ready.chanValid = true ∧
      65536 < ({ ready with opnd := { ready.opnd with addr := 0xFFFF, len := 2 } } : State).opnd.addr.toNat + 2 ∧
      ready.opnd.len = 0 ∧ 65536 < refParams.fwBase.toNat + (61441 : Word).toNat := by
  decide

/-- For `TransferProgress`, `ChannelAfterSelectOrExit` and `FetchErrorKeepsMirror`. -/
theorem witness_TransferProgress : ready.env.abandon = [] := by decide

/-- The clauses of `FetchErrorKeepsMirror`: a fetch that fails on an empty mirror, a field and a value for the rest. -/
theorem witness_FetchErrorKeepsMirror :
    let s : State := { arriving ready [[]] with opnd := kvPage.opnd }
    after (·.res.status) (exec .fetch s) = some 0x13 ∧ s.cached = false ∧
      refParams.find s.opnd.field = some ⟨5, "kv", 26, 1, .scaled 40 1 20⟩ ∧ s.portValue = .ok (.int 420) ∧
      encodeValue refParams.strPad 1 (.scaled 40 1 20) (.int 420) = .ok [0x0A] ∧
      after (fun t => (t.res.step, t.cached)) (exec .flashAll
        { selectExample with env := { selectExample.env with accepts := [300, 3] } }) = some (2, false) := by
  decide +kernel

/-- For `SelectAndExitComplete`. -/
theorem witness_SelectAndExitComplete :
    (served [shortReply]).linkUp = true ∧ (served [shortReply]).env.answers [shortReply] := ⟨rfl, served_one⟩

/-- The last value and the first without a raw form. -/
theorem witness_RawCodec : (0 : Int) ≤ 255 ∧ (255 : Int) < 256 ^ 1 ∧ ¬((0 : Int) ≤ 256 ∧ (256 : Int) < 256 ^ 1) ∧
    ¬((0 : Int) ≤ -1 ∧ (-1 : Int) < 256 ^ 1) := by
  decide

theorem witness_BoundedAndScaledCodecs :
    (0 : Int) ≤ 255 ∧ (255 : Int) < 256 ^ 1 ∧ ¬((0 : Int) ≤ 256 ∧ (256 : Int) < 256 ^ 1) ∧ 255 < 256 ^ 1 ∧ 1 ≤ 40 ∧ (19 : Int) < 20 ∧ (20 : Int) + ((256 ^ 1 : Nat) : Int) * 40 ≤ 10260 ∧ (20 : Int) ≤ 20 ∧
      (10259 : Int) < 20 + ((256 ^ 1 : Nat) : Int) * 40 := by
  decide

/-- Texts of the field's width and of one byte more. -/
theorem witness_StringCodec :
    (List.replicate 12 (0x41 : Byte)).length ≤ 12 ∧ 12 < (List.replicate 13 (0x41 : Byte)).length := by
  decide

theorem witness_FetchCompletes :
    (served [pageReply]).linkUp = true ∧ (served [pageReply]).chanValid = true ∧ pageReply.payload.length = 256 ∧
      (served [pageReply]).env.answers [pageReply] :=
  ⟨rfl, rfl, pageReply_length, served_page⟩

/-- The clauses of `GetFieldCompletes`: a populated mirror, an empty one, an index without an entry. -/
theorem witness_GetFieldCompletes :
    refParams.find kvPage.opnd.field = some ⟨5, "kv", 26, 1, .scaled 40 1 20⟩ ∧ kvPage.cached = true ∧
      (let s : State := { served [pageReply] with opnd := kvPage.opnd }
       s.cached = false ∧ s.linkUp = true ∧ s.chanValid = true ∧ s.env.answers [pageReply]) ∧
      pageReply.payload.length = 256 ∧ refParams.find 12 = none :=
  ⟨by decide, rfl, ⟨rfl, rfl, rfl, served_page⟩, pageReply_length, by decide⟩

/-- For `SetFieldCompletes` and `SetThenGet` with a populated mirror, and the last clause of `SetFieldRefusals`. -/
theorem witness_SetFieldCompletes :
    let s : State := { kvPage with env := answering [shortReply] }
    refParams.find s.opnd.field = some ⟨5, "kv", 26, 1, .scaled 40 1 20⟩ ∧ s.portValue = .ok (.int 420) ∧
      encodeValue refParams.strPad 1 (.scaled 40 1 20) (.int 420) = .ok [0x0A] ∧ s.linkUp = true ∧ s.chanValid = true ∧
      s.cached = (none : Option Reply).isNone ∧ s.env.abandon = [] ∧ s.env.answers [shortReply] :=
  ⟨by decide, by decide, by decide, rfl, rfl, rfl, rfl, served_one⟩

/-- `SetFieldCompletes` with an empty mirror. -/
theorem witness_SetFieldCompletes_fetching :
    let s : State := { served [pageReply, shortReply] with opnd := kvPage.opnd }
    refParams.find s.opnd.field = some ⟨5, "kv", 26, 1, .scaled 40 1 20⟩ ∧ s.portValue = .ok (.int 420) ∧
      s.linkUp = true ∧ s.chanValid = true ∧ s.cached = (some pageReply).isNone ∧
      (∀ x ∈ some pageReply, x.payload.length = 256) ∧
      s.env.answers ((some pageReply).toList ++ shortReply :: []) :=
  ⟨by decide, by decide, rfl, rfl, rfl, by intro x hx; cases hx; exact pageReply_length,
    answering_answers _ (by intro r hr; simp at hr; rcases hr with rfl | rfl; exacts [pageReply_wf, shortReply_wf])⟩

/-- `SetThenGet` with an empty mirror: the fetch passes, and nothing answers the write back. -/
theorem witness_SetThenGet_fetching :
    let s : State := { served [pageReply] with opnd := kvPage.opnd }
    refParams.find s.opnd.field = some ⟨5, "kv", 26, 1, .scaled 40 1 20⟩ ∧ s.portValue = .ok (.int 420) ∧
      encodeValue refParams.strPad 1 (.scaled 40 1 20) (.int 420) = .ok [0x0A] ∧ s.linkUp = true ∧ s.chanValid = true ∧
      s.cached = (some pageReply).isNone ∧ s.env.abandon = [] ∧
      ∀ x ∈ some pageReply, x.payload.length = 256 ∧ s.env.answers [x] :=
  ⟨by decide, by decide, by decide, rfl, rfl, rfl, rfl, by intro x hx; cases hx; exact ⟨pageReply_length, served_page⟩⟩

/-- The clauses of `SetFieldRefusals`. -/
theorem witness_SetFieldRefusals :
    refParams.find 12 = none ∧ ({ kvPage with opnd := { kvPage.opnd with vkind := 3 } } : State).opnd.vkind = 3 ∧
      ({ kvPage with opnd := { kvPage.opnd with value := 19 } } : State).portValue = .ok (.int 19) ∧
      encodeValue refParams.strPad 1 (.scaled 40 1 20) (.int 19) = .error .valueUnrepresentable ∧
      ({ kvPage with linkUp := false } : State).linkUp = false ∧
      ({ kvPage with chanValid := false } : State).linkUp = true ∧
      ({ kvPage with chanValid := false } : State).chanValid = false := by
  decide

/-- The refusals of `SettingsRows`: no entry, an entry of another codec, the reserved kind, a value the codec refuses. -/
theorem witness_SettingsRows_refused :
    refParams.find 12 = none ∧ refParams.find kvPage.opnd.field = some ⟨5, "kv", 26, 1, .scaled 40 1 20⟩ ∧
      codecTag (.scaled 40 1 20) ≠ .raw ∧ codecTag (.scaled 40 1 20) = .scaled ∧
      ({ kvPage with opnd := { kvPage.opnd with vkind := 3 } } : State).opnd.vkind = 3 ∧
      ({ kvPage with opnd := { kvPage.opnd with value := 19 } } : State).portValue = .ok (.int 19) ∧
      encodeValue refParams.strPad 1 (.scaled 40 1 20) (.int 19) = .error .valueUnrepresentable := by
  decide

/-- The clauses of `SettingsRows`; the codec rows with the kv field. -/
theorem witness_SettingsRows :
    kvPage.cached = true ∧ (served [pageReply]).cached = false ∧ (served [pageReply]).env.answers [pageReply] ∧
      codecTag (.scaled 40 1 20) = .scaled ∧ kvPage.portValue = .ok (.int 420) ∧
      encodeValue refParams.strPad 1 (.scaled 40 1 20) (.int 420) = .ok [0x0A] :=
  ⟨rfl, rfl, served_page, rfl, by decide, by decide⟩

/-- The other clauses of `OwnFieldRows`: an empty mirror with a peer that answers the fetch and the write back, the fetch alone, or nothing; no stream; no channel. -/
theorem witness_OwnFieldRows_empty :
    (served [pageReply, shortReply]).cached = (some pageReply).isNone ∧
      (served [pageReply, shortReply]).env.answers ((some pageReply).toList ++ shortReply :: []) ∧
      (∀ x ∈ some pageReply, x.payload.length = 256 ∧ (served [pageReply]).env.answers [x]) ∧
      (arriving ready [[]]).cached = false ∧ (arriving ready [[]]).env.abandon = [] ∧
      after (fun u => u.res.status) (exec .fetch (arriving ready [[]])) = some 0x13 ∧
      ({ ready with linkUp := false } : State).linkUp = false ∧ idle.linkUp = true ∧ idle.chanValid = false :=
  ⟨rfl, answering_answers _ (by intro r hr; simp at hr; rcases hr with rfl | rfl; exacts [pageReply_wf, shortReply_wf]),
    by intro x hx; cases hx; exact ⟨pageReply_length, served_page⟩, rfl, rfl, by decide +kernel, rfl, rfl, rfl⟩

/-- The clauses of `OwnFieldRows` with a populated mirror. -/
theorem witness_OwnFieldRows :
    let s : State := { kvPage with env := answering [shortReply] }
    refParams.find refParams.fMarker = some ⟨0, "marker", 0, 1, .raw⟩ ∧
      refParams.find refParams.fName = some ⟨4, "device_name", 5, 12, .string⟩ ∧ s.linkUp = true ∧ s.chanValid = true ∧
      s.cached = true ∧ s.env.answers [shortReply] :=
  ⟨by decide, by decide, rfl, rfl, rfl, served_one⟩

theorem witness_StatusAndKindRows :
    (Instr.statusShortRead, Status.shortRead) ∈ statusRows ∧ (Instr.vkindBytes, (2 : BitVec 2)) ∈ valueKindRows := by
  decide

/-- The four fields of the reference table. -/
theorem witness_ownFields :
    ownFields refParams ⟨0, "marker", 0, 1, .raw⟩ ⟨2, "fw_major", 3, 1, .raw⟩ ⟨3, "fw_minor", 4, 1, .raw⟩
      ⟨4, "device_name", 5, 12, .string⟩ := by
  unfold ownFields fieldsApart
  decide

/-- `FlashAllCompletes` with a one-byte image and an empty mirror: ten transactions. -/
theorem witness_FlashAllCompletes :
    let rs := shortReply :: (some pageReply).toList ++ [shortReply, shortReply, shortReply] ++ [shortReply] ++
      [shortReply, shortReply, shortReply] ++ []
    let s : State := { served rs with opnd := { ready.opnd with len := 1 }, fw := [0xAA] }
    s.linkUp = true ∧ refParams.fwBase.toNat + s.opnd.len.toNat ≤ 65536 ∧ s.fw.length = s.opnd.len.toNat ∧
      refParams.find refParams.fVerMajor = some ⟨2, "fw_major", 3, 1, .raw⟩ ∧
      refParams.find refParams.fVerMinor = some ⟨3, "fw_minor", 4, 1, .raw⟩ ∧ s.cached = (some pageReply).isNone ∧
      (∀ x ∈ some pageReply, x.payload.length = 256) ∧ [shortReply].length = chunkCount s.opnd.len.toNat ∧
      s.env.answers rs := by
  refine ⟨rfl, by decide, by decide, by decide, by decide, rfl, by intro x hx; cases hx; exact pageReply_length, by decide,
    answering_answers _ ?_⟩
  intro r hr
  simp at hr
  rcases hr with h | h | h <;> subst h <;> first | exact pageReply_wf | exact shortReply_wf

/-- The same with a populated mirror. -/
theorem witness_FlashAllCompletes_cached :
    let rs := shortReply :: (none : Option Reply).toList ++ [shortReply, shortReply, shortReply] ++ [] ++
      [shortReply, shortReply, shortReply] ++ []
    let s : State := { kvPage with env := answering rs }
    s.linkUp = true ∧ s.fw.length = s.opnd.len.toNat ∧ s.cached = (none : Option Reply).isNone ∧
      ([] : List Reply).length = chunkCount s.opnd.len.toNat ∧ s.env.answers rs := by
  refine ⟨rfl, by decide, rfl, by decide, answering_answers _ ?_⟩
  intro r hr
  simp at hr
  subst hr
  exact shortReply_wf

/-- For `FlashAllReports`, `MarkerInMirror` (a failure in step 1; for step 2 see `test_flashAll_step2` and `witness_FetchErrorKeepsMirror`) and `MarkerOrder`. -/
theorem witness_FlashAllReports :
    selectRefused.linkUp = true ∧ refParams.fwBase.toNat + selectRefused.opnd.len.toNat ≤ 65536 ∧
      selectRefused.fw.length = selectRefused.opnd.len.toNat ∧ selectRefused.env.abandon = [] ∧
      ∃ t, exec .flashAll selectRefused = .next t :=
  ⟨rfl, by decide, by decide, rfl, goes_on (by decide +kernel)⟩

end Sys2Proof.Tests
end

section
/-! SUPPORT. Every state a procedure comes to is reached by a run of single updates (`Run`), and one lemma says how every instruction answers (`exec_answers`). The frame of the host's side, the bounds of the stream events and the absence of faults are read off these. -/

namespace Sys2Proof.Machine

open Ret

/-! ## Runs of updates -/

/-- One update a procedure makes. The stream is updated by its two calls alone, so that what holds of every call holds along every run. -/
inductive Update : State → State → Prop where
  | tx (s : State) (bs : List Byte) : Update s (s.setTx bs)
  | rx (s : State) (bs : List Byte) : Update s (s.setRx bs)
  | ack (s : State) (a : Byte) : Update s (s.setAck a)
  | xfer (s : State) (x : Word) : Update s (s.setXfer x)
  | inbuf (s : State) (bs : List Byte) : Update s (s.setInbuf bs)
  | mem (s : State) (a : Nat) (bs : List Byte) (fits : a + bs.length ≤ 256) :
      Update s (s.setMem (writeBytes s.mem a bs))
  | cached (s : State) : Update s s.setCached
  | clear (s : State) : Update s s.clearChan
  | chan (s : State) (c : Byte) : Update s (s.setChan c)
  | seqStep (s : State) (k : BitVec 4) : Update s (s.setSeqStep k)
  | write (s : State) (bs : List Byte) : Update s (streamWrite bs s).state
  | read (s : State) (max : Nat) : Update s (streamRead max s).state

/-- A run of updates, of any length. -/
abbrev Run : State → State → Prop := Relation.ReflTransGen Update

/-- A relation that holds across every update of the sequencer holds across every run. -/
theorem SequencerRel.of_run {R : State → State → Prop} (h : SequencerRel R) {s t : State} (hr : Run s t) : R s t := by
  induction hr with
  | refl => exact h.refl s
  | tail _ hu ih =>
    refine h.trans _ _ _ ih ?_
    cases hu with
    | tx bs => exact h.tx _ bs
    | rx bs => exact h.rx _ bs
    | ack a => exact h.ack _ a
    | xfer x => exact h.xfer _ x
    | inbuf bs => exact h.inbuf _ bs
    | mem a bs fits => exact h.mem _ a bs fits
    | cached => exact h.cached _
    | clear => exact h.clear _
    | chan c => exact h.chan _ c
    | seqStep k => exact h.step _ k
    | write bs => exact h.streamWrite bs _
    | read max => exact h.streamRead max _

/-- No update takes a stream event back, and every new one keeps the bounds of its call. -/
theorem Update.eventsGrow {s t : State} (h : Update s t) : EventsGrow s t := by
  cases h with
  | write bs => exact streamWrite_grows bs s
  | read max => exact streamRead_grows max s
  | _ => exact EventsGrow.of_same rfl rfl

theorem Run.eventsGrow {s t : State} (h : Run s t) : EventsGrow s t := by
  induction h with
  | refl => exact EventsGrow.of_same rfl rfl
  | tail _ hu ih => exact ih.trans hu.eventsGrow

/-- A host that resets the core during no operation does not begin to (R332). -/
theorem undisturbed_rel : SequencerRel (fun s t => s.env.abandon = [] → t.env.abandon = []) := by
  refine ⟨⟨⟨⟨?_, ?_, ?_, ?_, ?_, ?_, ?_⟩, ?_, ?_⟩, ?_, ?_⟩, ?_, ?_, ?_⟩ <;> intros <;> simp_all [countDown]

/-! ## Every procedure is a run -/

/-- From `s`, the procedure with outcome `r` came by updates to the state it leaves, and if it was abandoned, then at a stream call the host's reset was due at (R332). -/
structure Ran {α : Type} (s : State) (r : Ret α) : Prop where
  run : Run s r.state
  abandoned : ∀ t, r = .stop .abandoned t → t.env.abandonsNow = true

namespace Ran

variable {α β : Type}

theorem ok (a : α) (s : State) : Ran s (Ret.ok a s) := ⟨.refl, by intro t h; cases h⟩
theorem raise (e : Status) (s : State) : Ran s (Machine.raise e s : Ret α) := ⟨.refl, by intro t h; cases h⟩
theorem broken (f : Fault) (s : State) : Ran s (Ret.stop (.broken f) s : Ret α) := ⟨.refl, by intro t h; cases h⟩

theorem ofExcept (x : Except Status α) (s : State) : Ran s (Machine.ofExcept x s) := by
  cases x with
  | ok a => exact ok a s
  | error e => exact raise e s

theorem after {s t : State} {r : Ret α} (h : Ran t r) (hu : Update s t) : Ran s r := ⟨h.run.head hu, h.abandoned⟩

theorem bind {s : State} {r : Ret α} {f : α → State → Ret β} (h1 : Ran s r) (h2 : ∀ a t, Ran t (f a t)) :
    Ran s (r.bind f) := by
  refine ⟨Ret.bind_rel (fun _ _ _ h g => h.trans g) h1.run fun a t _ => (h2 a t).run, fun t h => ?_⟩
  rcases Ret.bind_eq_stop.1 h with h | ⟨a, u, -, h⟩
  · exact h1.abandoned t h
  · exact (h2 a u).abandoned t h

end Ran

theorem streamWrite_ran (bs : List Byte) (s : State) : Ran s (streamWrite bs s) := by
  refine ⟨.single (.write s bs), fun t h => ?_⟩
  unfold streamWrite at h
  split at h <;> cases h
  assumption

theorem streamRead_ran (max : Nat) (s : State) : Ran s (streamRead max s) := by
  refine ⟨.single (.read s max), fun t h => ?_⟩
  unfold streamRead at h
  split at h <;> cases h
  assumption

theorem memRead_ran (a n : Nat) (s : State) : Ran s (memRead a n s) := by
  unfold memRead
  split
  · exact .ok _ s
  · exact .broken _ s

theorem memWrite_ran (a : Nat) (bs : List Byte) (s : State) : Ran s (memWrite a bs s) := by
  unfold memWrite
  split
  · exact (Ran.ok () _).after (.mem s a bs ‹_›)
  · exact .broken _ s

/-! ### The transports -/

theorem e4wAck_ran (b : Byte) (s : State) : Ran s (e4wAck b s) := by
  unfold e4wAck
  split
  · exact (Ran.ok () _).after (.ack s b)
  · exact (Ran.raise _ _).after (.ack s b)

theorem e4wCheck_ran (h b : List Byte) (s : State) : Ran s (e4wCheck h b s) := by
  unfold e4wCheck
  split
  · exact .raise _ s
  · exact (e4wAck_ran _ s).bind fun _ t => .ok _ t

theorem e4wReply_ran (s : State) : Ran s (e4wReply s) := by
  unfold e4wReply
  refine (streamRead_ran 5 s).bind fun h t => ?_
  split
  · exact (Ran.raise _ _).after (.rx t h)
  · refine Ran.after ((streamRead_ran _ _).bind fun b u => ?_) (.rx t h)
    split
    · exact (Ran.raise _ _).after (.rx u _)
    · exact (e4wCheck_ran h b _).after (.rx u _)

theorem e4wPut_ran (cmd : Byte) (addr : Half) (out : List Byte) (s : State) : Ran s (e4wPut cmd addr out s) := by
  unfold e4wPut
  split
  · exact .raise _ s
  split
  · exact .raise _ s
  split
  · exact .raise _ s
  refine Ran.after ((streamWrite_ran _ _).bind fun w t => ?_) (.tx s _)
  split
  · exact .raise _ t
  · exact .ok _ t

theorem e4wSend_ran (cmd : Byte) (addr : Half) (out : List Byte) (s : State) : Ran s (e4wSend cmd addr out s) :=
  (e4wPut_ran cmd addr out s).bind fun _ t => e4wReply_ran t

theorem deviceInit_ran (ch : Byte) (s : State) : Ran s (deviceInit ch s) := e4wSend_ran _ _ _ s
theorem deviceWrite_ran (addr : Half) (bs : List Byte) (s : State) : Ran s (deviceWrite addr bs s) := e4wSend_ran _ _ _ s
theorem bootloaderExit_ran (s : State) : Ran s (bootloaderExit s) := e4wSend_ran _ _ _ s

theorem deviceRead_ran (addr : Half) (n : Nat) (s : State) : Ran s (deviceRead addr n s) := by
  refine (e4wSend_ran _ _ _ s).bind fun p t => ?_
  split
  · exact .raise _ t
  · exact .ok _ t

theorem admitTransfer_ran (addr len : Nat) (s : State) : Ran s (admitTransfer addr len s) := by
  unfold admitTransfer
  split
  · exact .raise _ s
  split
  · exact .raise _ s
  split
  · exact .raise _ s
  · exact .ok _ s

theorem readChunks_ran (addr len k i : Nat) (s : State) : Ran s (readChunks addr len k i s) := by
  induction k generalizing i s with
  | zero => exact .ok _ s
  | succ k ih =>
    exact (deviceRead_ran _ _ s).bind fun p t => ((ih (i + 1) _).after (.xfer _ _)).after (.inbuf t _)

theorem readFlash_ran (addr len : Nat) (s : State) : Ran s (readFlash addr len s) :=
  (admitTransfer_ran _ _ s).bind fun _ t => ((readChunks_ran _ _ _ _ _).after (.inbuf _ _)).after (.xfer t _)

theorem writeChunks_ran (addr : Nat) (buf : List Byte) (k i : Nat) (s : State) :
    Ran s (writeChunks addr buf k i s) := by
  induction k generalizing i s with
  | zero => exact .ok _ s
  | succ k ih => exact (deviceWrite_ran _ _ s).bind fun _ t => (ih (i + 1) _).after (.xfer t _)

theorem writeFlash_ran (addr : Nat) (buf : List Byte) (s : State) : Ran s (writeFlash addr buf s) :=
  (admitTransfer_ran _ _ s).bind fun _ t => (writeChunks_ran _ _ _ _ _).after (.xfer t _)

theorem selectChannel_ran (ch : Byte) (s : State) : Ran s (selectChannel ch s) :=
  Ran.after ((deviceInit_ran _ _).bind fun _ t => (Ran.ok () _).after (.chan t ch)) (.clear s)

theorem exitSession_ran (s : State) : Ran s (exitSession s) :=
  Ran.after ((bootloaderExit_ran _).bind fun _ t => .ok () t) (.clear s)

theorem mspTransact_ran (cmd : Half) (out : List Byte) (cap : Nat) (s : State) :
    Ran s (mspTransact cmd out cap s) := by
  unfold mspTransact
  split
  · exact .raise _ s
  split
  · exact .raise _ s
  refine Ran.after ((streamWrite_ran _ _).bind fun w t => ?_) (.tx s _)
  split
  · exact .raise _ t
  · exact (streamRead_ran _ t).bind fun rx u => (Ran.ofExcept _ _).after (.rx u rx)

theorem oneChunk_ran (s : State) : Ran s (oneChunk s) := by
  unfold oneChunk
  split
  · exact .raise _ s
  split
  · exact .raise _ s
  · exact .ok _ s

/-! ### The settings cache and the sequencer -/

theorem lookup_ran (i : Byte) (s : State) : Ran s (lookup i s) := by
  unfold lookup
  split
  · exact .raise _ s
  · exact .ok _ s

theorem fetch_ran (s : State) : Ran s (fetch s) :=
  (readFlash_ran _ _ s).bind fun _ t => (memWrite_ran _ _ t).bind fun _ u => (Ran.ok () _).after (.cached u)

theorem fetchIfAbsent_ran (s : State) : Ran s (fetchIfAbsent s) := by
  unfold fetchIfAbsent
  split
  · exact .ok _ s
  · exact fetch_ran s

theorem getField_ran (i : Byte) (s : State) : Ran s (getField i s) :=
  (lookup_ran i s).bind fun _ t => (fetchIfAbsent_ran t).bind fun _ u => (memRead_ran _ _ u).bind fun _ v => .ok _ v

theorem writeBack_ran (s : State) : Ran s (writeBack s) :=
  (memRead_ran _ _ s).bind fun _ t => writeFlash_ran _ _ t

theorem setField_ran (e : FieldEntry) (v : Value) (s : State) : Ran s (setField e v s) := by
  refine (Ran.ofExcept _ s).bind fun raw t => ?_
  split
  · exact .raise _ t
  split
  · exact .raise _ t
  exact (fetchIfAbsent_ran t).bind fun _ u => (memWrite_ran _ _ u).bind fun _ w => writeBack_ran w

theorem setOwnField_ran (i : Byte) (v : Value) (s : State) : Ran s (setOwnField i v s) :=
  (lookup_ran i s).bind fun e t => setField_ran e v t

theorem throughCodec_ran (tag : CodecTag) (s : State) : Ran s (throughCodec tag s) := by
  refine (lookup_ran _ s).bind fun e t => ?_
  split
  · exact .raise _ t
  · exact (Ran.ofExcept _ t).bind fun v u => (Ran.ofExcept _ u).bind fun _ w => .ok _ w

theorem resetVersion_ran (s : State) : Ran s (resetVersion s) :=
  (lookup_ran _ s).bind fun _ t => (lookup_ran _ t).bind fun _ u =>
    (memWrite_ran _ _ u).bind fun _ v => (memWrite_ran _ _ v).bind fun _ w => writeBack_ran w

theorem seqStepDo_ran (k : BitVec 4) {p : State → Ret Unit} (hp : ∀ t, Ran t (p t)) (s : State) :
    Ran s (seqStepDo k p s) := (hp _).after (.seqStep s k)

theorem flashSteps_ran (fw : List Byte) (s : State) : Ran s (flashSteps fw s) :=
  (seqStepDo_ran 1 (fun t => selectChannel_ran _ t) s).bind fun _ s =>
  (seqStepDo_ran 2 (fun t => setOwnField_ran _ _ t) s).bind fun _ s =>
  (seqStepDo_ran 3 (fun t => setOwnField_ran _ _ t) s).bind fun _ s =>
  (seqStepDo_ran 4 resetVersion_ran s).bind fun _ s =>
  (seqStepDo_ran 5 (fun t => writeFlash_ran _ _ t) s).bind fun _ s =>
  (seqStepDo_ran 6 (fun t => setOwnField_ran _ _ t) s).bind fun _ s =>
  (seqStepDo_ran 7 (fun t => setOwnField_ran _ _ t) s).bind fun _ s =>
  seqStepDo_ran 8 exitSession_ran s

theorem flashAll_ran (s : State) : Ran s (flashAll s) := by
  unfold flashAll fwBytes
  split
  · exact .raise _ s
  split
  · exact .raise _ s
  split
  · exact flashSteps_ran _ s
  · exact .broken _ s

/-! ## Where a procedure meets a fault -/

/-- `r` does not stop with a fault. -/
def Faultless {α : Type} (r : Ret α) : Prop := StopsIn (fun e => ∀ f, e ≠ .broken f) r

theorem Ret.StopsIn.faultless {α : Type} {l : List Status} {r : Ret α} (h : StopsIn (raisedIn l) r) : Faultless r :=
  h.mono fun _ he _ hb => by rw [hb] at he; exact he

theorem Faultless.ok {α : Type} (a : α) (s : State) : Faultless (Ret.ok a s) := StopsIn.ok a s

theorem Faultless.raise {α : Type} (e : Status) (s : State) : Faultless (Machine.raise e s : Ret α) :=
  StopsIn.raise (by simp) s

theorem Faultless.ofExcept {α : Type} (x : Except Status α) (s : State) : Faultless (Machine.ofExcept x s) :=
  StopsIn.ofExcept (by simp)

theorem Faultless.bind {α β : Type} {r : Ret α} {f : α → State → Ret β} (h1 : Faultless r)
    (h2 : ∀ a t, r = .ok a t → Faultless (f a t)) : Faultless (r.bind f) := StopsIn.bind h1 h2

theorem mspTransact_faultless (cmd : Half) (out : List Byte) (cap : Nat) (s : State) :
    Faultless (mspTransact cmd out cap s) := by
  unfold mspTransact
  split
  · exact .raise _ s
  split
  · exact .raise _ s
  refine (streamWrite_stops _ _ []).faultless.bind fun w t _ => ?_
  split
  · exact .raise _ t
  · exact (streamRead_stops _ _ []).faultless.bind fun rx u _ => .ofExcept _ _

theorem oneChunk_faultless (s : State) : Faultless (oneChunk s) := by
  unfold oneChunk
  split
  · exact .raise _ s
  split
  · exact .raise _ s
  · exact .ok _ s

theorem deviceInit_faultless (ch : Byte) (s : State) : Faultless (deviceInit ch s) := (e4wSend_stops _ _ _ s).faultless

theorem deviceWrite_faultless (addr : Half) (bs : List Byte) (s : State) : Faultless (deviceWrite addr bs s) :=
  (e4wSend_stops _ _ _ s).faultless

theorem bootloaderExit_faultless (s : State) : Faultless (bootloaderExit s) := (e4wSend_stops _ _ _ s).faultless

theorem deviceRead_faultless (addr : Half) (n : Nat) (s : State) : Faultless (deviceRead addr n s) := by
  refine (e4wSend_stops _ _ _ s).faultless.bind fun p t _ => ?_
  split
  · exact .raise _ t
  · exact .ok _ t

theorem throughCodec_faultless (tag : CodecTag) (s : State) : Faultless (throughCodec tag s) := by
  refine (lookup_stops _ s).faultless.bind fun e t _ => ?_
  split
  · exact .raise _ t
  · exact (Faultless.ofExcept _ t).bind fun v u _ => (Faultless.ofExcept _ u).bind fun _ w _ => .ok _ w

/-- Where the firmware source of `FLASH_ALL` is read, and holds another number of bytes than `A_LEN` (R35, R260). -/
def FirmwareMismatch (s : State) : Prop :=
  s.linkUp = true ∧ s.cfg.params.fwBase.toNat + s.opnd.len.toNat ≤ 65536 ∧ s.fw.length ≠ s.opnd.len.toNat

theorem flashAll_mismatch {s : State} (h : FirmwareMismatch s) : flashAll s = .stop (.broken .firmwareSource) s := by
  obtain ⟨hl, hr, hn⟩ := h
  rw [flashAll, if_neg (by simp [hl]), if_neg (by omega), fwBytes, if_neg hn, Ret.bind_stop]

theorem flashAll_broken {s t : State} {f : Fault} (h : flashAll s = .stop (.broken f) t) :
    f = .firmwareSource ∧ FirmwareMismatch s := by
  unfold flashAll fwBytes at h
  split at h
  · cases h
  split at h
  · cases h
  rename_i hl hr
  split at h
  · exact absurd rfl ((flashSteps_stops _ _).faultless _ _ h f)
  · cases h
    exact ⟨rfl, by simpa using hl, by omega, ‹_›⟩

/-! ## How an instruction answers -/

/-- The ways instruction `i` can answer from `s`: a host write of a value kind, the refusal of a bootloader row, the end of an operation at once or after a run from its start, a new session where the host abandoned the run, and the fault of `FLASH_ALL`. -/
inductive Answers (i : Instr) (s : State) : Host.Outcome State Fault Refusal → Prop where
  | kind {k : BitVec 2} (row : (i, k) ∈ valueKindRows) : Answers i s (.next (s.setVkind k))
  | refused {code : Byte} (row : (i, code) ∈ bootloaderRows) : Answers i s (.refused (.bootloaderSubProtocol code))
  | endedAtOnce (r : Results) (bs : List Byte) : Answers i s (.next (s.endOp r bs))
  | ended {t : State} (run : Run s.begin t) (r : Results) (bs : List Byte) : Answers i s (.next (t.endOp r bs))
  | abandoned {t : State} (run : Run s.begin t) (now : t.env.abandonsNow = true) :
      Answers i s (.next (t.setEnv t.env.afterAbandon).newSession)
  | fault (isFlashAll : i = .flashAll) (mismatch : FirmwareMismatch s) : Answers i s (.fault .firmwareSource)

/-- How an operation answers whose procedure is a run and meets a fault only where `FLASH_ALL` does. -/
theorem runOp_answers_of {α : Type} {i : Instr} {op : BitVec 4} {body : State → Ret α}
    {results : α → State → Results × List Byte} {s : State} (hr : Ran s.begin (body s.begin))
    (hf : ∀ f t, body s.begin = .stop (.broken f) t → f = .firmwareSource ∧ i = .flashAll ∧ FirmwareMismatch s) :
    Answers i s (runOp op body results s) := by
  have run := hr.run
  rcases runOp_cases op body results s with ⟨a, t, hb, h⟩ | ⟨e, t, hb, h⟩ | ⟨t, hb, h⟩ | ⟨f, t, hb, h⟩ <;>
    rw [h] <;> rw [hb] at run
  · exact .ended run _ _
  · obtain ⟨r, bs, hentry⟩ := raiseEntry_frame op e t
    rw [hentry]
    exact .ended run r bs
  · exact .abandoned run (hr.abandoned t hb)
  · obtain ⟨rfl, hi, hm⟩ := hf f t hb
    exact .fault hi hm

theorem runOp_answers {α : Type} {i : Instr} {op : BitVec 4} {body : State → Ret α}
    {results : α → State → Results × List Byte} {s : State} (hr : ∀ t, Ran t (body t)) (hf : ∀ t, Faultless (body t)) :
    Answers i s (runOp op body results s) :=
  runOp_answers_of (hr _) fun f t h => absurd rfl (hf _ _ t h f)

theorem checksum_answers (i : Instr) (op : BitVec 4) (c : State → Half) (s : State) :
    Answers i s (runOp op (fun t => .ok (c t) t) crcResult s) :=
  runOp_answers (fun _ => .ok _ _) (fun _ => .ok _ _)

theorem reservedOp_answers (i : Instr) (op : BitVec 4) (s : State) : Answers i s (reservedOp op s) :=
  runOp_answers (fun _ => .raise _ _) (fun _ => .raise _ _)

theorem endWith_answers (i : Instr) (e : Status) (s : State) : Answers i s (endWith e s) :=
  runOp_answers (fun _ => .raise _ _) (fun _ => .raise _ _)

theorem receiveAck_answers (i : Instr) (b : Byte) (s : State) : Answers i s (receiveAck b s) :=
  runOp_answers (fun _ => e4wAck_ran b _) (fun _ => (e4wAck_stops b _).faultless)

theorem throughCodec_answers (i : Instr) (tag : CodecTag) (s : State) :
    Answers i s (runOp 0x9 (throughCodec tag) valueResult s) :=
  runOp_answers (fun _ => throughCodec_ran tag _) (fun _ => throughCodec_faultless tag _)

theorem setOwnField_answers (i : Instr) (field : State → Byte) (v : Value) (s : State) :
    Answers i s (runOp 0xA (fun t => setOwnField (field t) v t) ackOnly s) :=
  runOp_answers (fun _ => setOwnField_ran _ v _) (fun _ => (setOwnField_stops _ v _).faultless)

theorem mspTransact_answers (i : Instr) (s : State) : Answers i s (execMspTransact s) :=
  runOp_answers (fun _ => mspTransact_ran _ _ _ _) (fun _ => mspTransact_faultless _ _ _ _)

theorem setField_answers (s : State) : Answers .setField s (execSetField s) := by
  refine runOp_answers (fun t => ?_) (fun t => ?_)
  · exact (lookup_ran _ t).bind fun e t => (Ran.ofExcept _ t).bind fun v u => setField_ran e v u
  · refine (lookup_stops _ t).faultless.bind fun e u he => ?_
    obtain ⟨rfl, hfind⟩ := lookup_ok he
    refine (Faultless.ofExcept _ u).bind fun v w hv => ?_
    have hw := ofExcept_state u.portValue u
    rw [hv] at hw
    obtain rfl : w = u := hw
    exact (setField_stops v hfind).faultless

theorem e4wDeviceRead_answers (s : State) : Answers .e4wDeviceRead s (execE4wDeviceRead s) := by
  refine runOp_answers (fun t => ?_) (fun t => ?_) <;> split
  · exact .raise _ t
  · exact (oneChunk_ran t).bind fun n u => deviceRead_ran _ n u
  · exact .raise _ t
  · exact (oneChunk_faultless t).bind fun n u _ => deviceRead_faultless _ n u

theorem e4wReplyFrame_answers (s : State) : Answers .e4wReplyFrame s (execE4wReplyFrame s) := by
  refine runOp_answers (fun t => ?_) (fun t => ?_) <;> split
  · exact .raise _ t
  · exact e4wReply_ran t
  · exact .raise _ t
  · exact (e4wReply_stops t).faultless

theorem e4wLengthByte_answers (s : State) : Answers .e4wLengthByte s (execE4wLengthByte s) :=
  runOp_answers (fun t => (oneChunk_ran t).bind fun _ u => .ok _ u)
    (fun t => (oneChunk_faultless t).bind fun _ u _ => .ok _ u)

theorem flashAll_answers (s : State) : Answers .flashAll s (execFlashAll s) :=
  runOp_answers_of (flashAll_ran _) fun _ _ h => ⟨(flashAll_broken h).1, rfl, (flashAll_broken h).2⟩

/-- How every instruction answers. -/
theorem exec_answers (i : Instr) (s : State) : Answers i s (exec i s) := by
  cases i with dsimp only [exec]
  | crc8 => exact checksum_answers _ _ _ s
  | crc16x => exact checksum_answers _ _ _ s
  | crc16r => exact checksum_answers _ _ _ s
  | mspTransact => exact mspTransact_answers _ s
  | e4wSend => exact runOp_answers (fun _ => e4wSend_ran _ _ _ _) (fun _ => (e4wSend_stops _ _ _ _).faultless)
  | readFlash => exact runOp_answers (fun _ => readFlash_ran _ _ _) (fun _ => (readFlash_stops _ _ _).faultless)
  | writeFlash => exact runOp_answers (fun _ => writeFlash_ran _ _ _) (fun _ => (writeFlash_stops _ _ _).faultless)
  | fetch => exact runOp_answers (fun _ => fetch_ran _) (fun _ => (fetch_stops _).faultless)
  | getField => exact runOp_answers (fun _ => getField_ran _ _) (fun _ => (getField_stops _ _).faultless)
  | setField => exact setField_answers s
  | flashAll => exact flashAll_answers s
  | selectChannel => exact runOp_answers (fun _ => selectChannel_ran _ _) (fun _ => (selectChannel_stops _ _).faultless)
  | exitSession => exact runOp_answers (fun _ => exitSession_ran _) (fun _ => (exitSession_stops _).faultless)
  | reservedOp0 => exact reservedOp_answers _ _ s
  | reservedOpE => exact reservedOp_answers _ _ s
  | reservedOpF => exact reservedOp_answers _ _ s
  | vkindInt => exact .kind (by simp [valueKindRows])
  | vkindDisabled => exact .kind (by simp [valueKindRows])
  | vkindBytes => exact .kind (by simp [valueKindRows])
  | vkindReserved => exact .kind (by simp [valueKindRows])
  | ackOk => exact receiveAck_answers _ _ s
  | ackInvalidCmd => exact receiveAck_answers _ _ s
  | ackInvalidCrc => exact receiveAck_answers _ _ s
  | ackVerifyError => exact receiveAck_answers _ _ s
  | ackInvalidChannel => exact receiveAck_answers _ _ s
  | ackInvalidParam => exact receiveAck_answers _ _ s
  | ackGeneralError => exact receiveAck_answers _ _ s
  | ackUnknown b => exact receiveAck_answers _ b s
  | blRun => exact .refused (by simp [bootloaderRows])
  | blProgramFlash => exact .refused (by simp [bootloaderRows])
  | blEraseFlash => exact .refused (by simp [bootloaderRows])
  | blVerifyOrOther3 => exact .refused (by simp [bootloaderRows])
  | blVerifyOrOther4 => exact .refused (by simp [bootloaderRows])
  | blProgramEeprom => exact .refused (by simp [bootloaderRows])
  | blReadSram => exact .refused (by simp [bootloaderRows])
  | blKeepAlive => exact .refused (by simp [bootloaderRows])
  | blSetBuffer => exact .refused (by simp [bootloaderRows])
  | blSetAddress => exact .refused (by simp [bootloaderRows])
  | e4wDeviceInit => exact runOp_answers (fun _ => deviceInit_ran _ _) (fun _ => deviceInit_faultless _ _)
  | e4wDeviceRead => exact e4wDeviceRead_answers s
  | e4wDeviceWrite => exact runOp_answers (fun _ => deviceWrite_ran _ _ _) (fun _ => deviceWrite_faultless _ _ _)
  | e4wExit => exact runOp_answers (fun _ => bootloaderExit_ran _) (fun _ => bootloaderExit_faultless _)
  | mspFrame => exact mspTransact_answers _ s
  | e4wRequestFrame => exact runOp_answers (fun _ => e4wPut_ran _ _ _ _) (fun _ => (e4wPut_stops _ _ _ _).faultless)
  | e4wReplyFrame => exact e4wReplyFrame_answers s
  | settingsBlock => exact runOp_answers (fun _ => fetchIfAbsent_ran _) (fun _ => (fetchIfAbsent_stops _).faultless)
  | fieldTableEntry => exact runOp_answers (fun _ => lookup_ran _ _) (fun _ => (lookup_stops _ _).faultless)
  | codecRaw => exact throughCodec_answers _ _ s
  | codecBounded => exact throughCodec_answers _ _ s
  | codecScaled => exact throughCodec_answers _ _ s
  | codecString => exact throughCodec_answers _ _ s
  | markerInvalid => exact setOwnField_answers _ _ _ s
  | markerValid => exact setOwnField_answers _ _ _ s
  | diagFlashFail => exact setOwnField_answers _ _ _ s
  | diagNotReady => exact setOwnField_answers _ _ _ s
  | e4wLengthByte => exact e4wLengthByte_answers s
  | statusOk => exact .endedAtOnce _ _
  | statusCommandError => exact .endedAtOnce _ _
  | statusSequenceError => exact .endedAtOnce _ _
  | statusChannelInitError => exact .endedAtOnce _ _
  | statusBadPreamble => exact endWith_answers _ _ s
  | statusLengthMismatch => exact endWith_answers _ _ s
  | statusCrcMismatch => exact endWith_answers _ _ s
  | statusShortRead => exact endWith_answers _ _ s
  | statusShortWrite => exact endWith_answers _ _ s
  | statusNotConnected => exact endWith_answers _ _ s
  | statusNoChannel => exact endWith_answers _ _ s
  | statusPayloadTooLong => exact endWith_answers _ _ s
  | statusPayloadEmpty => exact endWith_answers _ _ s
  | statusAddressRange => exact endWith_answers _ _ s
  | statusUnknownField => exact endWith_answers _ _ s
  | statusValueUnrepresentable => exact endWith_answers _ _ s
  | statusUnknownOp => exact endWith_answers _ _ s
  | statusBadValueKind => exact endWith_answers _ _ s

end Sys2Proof.Machine
end

section
/-! SUPPORT. The statements on the scope of the core: what a step adds to the stream events, where an instruction faults, what an operation leaves to the host, and what each host input does. -/

namespace Sys2Proof.Machine

/-! ## The stream events -/

/-- The stream events of `t` are those of `s` and new ones that keep the bounds of R12 and carry the `TIMEOUT` of `s` (R26). -/
def EventsAppended (s t : State) : Prop :=
  ∃ new, t.events = s.events ++ new ∧
    ∀ e ∈ new, (∀ k bs n, e = .write k bs n → n ≤ bs.length) ∧
      (∀ k max tt bs, e = .read k max tt bs → tt = s.timeout ∧ bs.length ≤ max)

theorem EventsAppended.of_eq {s t : State} (h : t.events = s.events) : EventsAppended s t := ⟨[], by simp [h], by simp⟩

/-- What an operation that ran to `t` leaves has the events of `t`, which are appended to those it found. -/
theorem EventsAppended.of_run {s t u : State} (h : Run s.begin t) (hu : u.events = t.events) : EventsAppended s u := by
  obtain ⟨-, new, he, hnew⟩ := h.eventsGrow
  exact ⟨new, hu.trans he, hnew⟩

theorem exec_eventsAppended {i : Instr} {s t : State} (h : exec i s = .next t) : EventsAppended s t := by
  have ha := exec_answers i s
  rw [h] at ha
  cases ha with
  | kind row => exact .of_eq rfl
  | endedAtOnce r bs => exact .of_eq rfl
  | ended run r bs => exact .of_run run rfl
  | abandoned run now => exact .of_run run rfl

theorem whenIdle_next {s t u : State} (h : whenIdle s t = .next u) : s.busy = false ∧ u = t := by
  unfold whenIdle at h
  split at h <;> cases h
  exact ⟨(Bool.not_eq_true _).mp ‹_›, rfl⟩

theorem runCode_next {sp : CodeSpace} {bs : List Byte} {s t : State} (h : runCode sp bs s = .next t) :
    ∃ i, decode s.cfg.params sp bs = .ok i ∧ exec i s = .next t := by
  unfold runCode at h
  split at h
  · exact ⟨_, ‹_›, h⟩
  · cases h

/-- A code given to the core is ignored while `BUSY = 1` (R31), and else runs an instruction. -/
theorem runCode_unless_busy_next {sp : CodeSpace} {bs : List Byte} {s t : State}
    (h : (if s.busy then .next s else runCode sp bs s) = Host.Outcome.next t) : (∃ i, exec i s = .next t) ∨ t = s := by
  split at h
  · cases h; exact .inr rfl
  · obtain ⟨i, -, hi⟩ := runCode_next h
    exact .inl ⟨i, hi⟩

/-- A host input that goes on runs an instruction, or leaves the stream events alone. -/
theorem hostStep_next {x : HostInput} {s t : State} (h : hostStep x s = .next t) :
    (∃ i, exec i s = .next t) ∨ t.events = s.events := by
  cases x with
  | start => exact (runCode_unless_busy_next h).imp_right (congrArg State.events)
  | present sp bs => exact (runCode_unless_busy_next h).imp_right (congrArg State.events)
  | operand r v => obtain ⟨-, rfl⟩ := whenIdle_next h; exact .inr rfl
  | timeout v =>
    simp only [hostStep, hostTimeout] at h
    split at h
    · obtain ⟨-, rfl⟩ := whenIdle_next h; exact .inr rfl
    · cases h
  | outbuf bs => obtain ⟨-, rfl⟩ := whenIdle_next h; exact .inr rfl
  | firmware bs => obtain ⟨-, rfl⟩ := whenIdle_next h; exact .inr rfl
  | link up => obtain ⟨-, rfl⟩ := whenIdle_next h; exact .inr rfl
  | drain n => obtain ⟨-, rfl⟩ := whenIdle_next h; exact .inr rfl
  | reset => cases h; exact .inr rfl

/-- A step consumes the first host input, which then acts. -/
theorem step_cons {s : State} {x : HostInput} {rest : List HostInput} (h : s.inputs = x :: rest) :
    step s = hostStep x (s.setInputs rest) := by
  simp only [step, h]

theorem step_nil {s : State} (h : s.inputs = []) : step s = .next s := by
  simp only [step, h]

/-- Settles O9: a step that goes on runs an instruction, which is a run of updates, or leaves the events alone. -/
theorem eventsOnlyAppended : Obligations.EventsOnlyAppended := by
  intro s t h
  show EventsAppended s t
  cases hx : s.inputs with
  | nil =>
    rw [step_nil hx] at h
    cases h
    exact .of_eq rfl
  | cons x rest =>
    rw [step_cons hx] at h
    rcases hostStep_next h with ⟨i, hi⟩ | he
    · have happ : EventsAppended (s.setInputs rest) t := exec_eventsAppended hi
      exact happ
    · exact .of_eq he

/-! ## Faults -/

theorem execFlashAll_mismatch {s : State} (h : FirmwareMismatch s) : exec .flashAll s = .fault .firmwareSource := by
  have hb : flashAll s.begin = .stop (.broken .firmwareSource) s.begin := flashAll_mismatch h
  show runOp 0xB flashAll flashAllResult s = _
  simp only [runOp, hb]

/-- Settles O11: the only fault among the answers of an instruction is that of `FLASH_ALL`, which does answer it. -/
theorem faultsOnlyForFirmware : Obligations.FaultsOnlyForFirmware := by
  intro i s f
  constructor
  · intro h
    have ha := exec_answers i s
    rw [h] at ha
    cases ha with
    | fault isFlashAll mismatch => exact ⟨isFlashAll, rfl, mismatch⟩
  · rintro ⟨rfl, rfl, mismatch⟩
    exact execFlashAll_mismatch mismatch

/-! ## The host's side -/

/-- Settles O16: an operation ends after a run of updates, none of which writes what the host supplies; it is not abandoned, as the host resets the core during no operation. -/
theorem hostStateKept : Obligations.HostStateKept := by
  intro i s t hkind hab h
  have ha := exec_answers i s
  rw [h] at ha
  cases ha with
  | kind row => exact absurd row (hkind _)
  | endedAtOnce r bs => exact sameHost_rel.refl s
  | @ended u run r bs =>
    have hu : SameHost s.begin u := sameHost_rel.of_run run
    exact hu
  | abandoned run now =>
    have := Env.abandonsNow_of_nil (undisturbed_rel.of_run run hab)
    rw [this] at now
    cases now

/-! ## Host inputs -/

/-- A register the host writes takes the low bits of the value at its width (R27). -/
theorem readOperand_writeOperand_same (r : OperandReg) (v : Word) (o : Operands) :
    readOperand (writeOperand r v o) r = v.toNat % 2 ^ operandWidth r := by
  have := v.isLt
  cases r <;> simp only [readOperand, writeOperand, operandWidth, BitVec.toNat_setWidth] <;> omega

theorem readOperand_writeOperand_ne {r q : OperandReg} (h : q ≠ r) (v : Word) (o : Operands) :
    readOperand (writeOperand r v o) q = readOperand o q := by
  cases r with
  | op => cases q with | op => exact absurd rfl h | _ => rfl
  | cmd => cases q with | cmd => exact absurd rfl h | _ => rfl
  | addr => cases q with | addr => exact absurd rfl h | _ => rfl
  | len => cases q with | len => exact absurd rfl h | _ => rfl
  | poly => cases q with | poly => exact absurd rfl h | _ => rfl
  | seed => cases q with | seed => exact absurd rfl h | _ => rfl
  | cap => cases q with | cap => exact absurd rfl h | _ => rfl
  | field => cases q with | field => exact absurd rfl h | _ => rfl
  | vkind => cases q with | vkind => exact absurd rfl h | _ => rfl
  | value => cases q with | value => exact absurd rfl h | _ => rfl
  | chan => cases q with | chan => exact absurd rfl h | _ => rfl

theorem whenIdle_busy {s : State} (h : s.busy = true) (t : State) : whenIdle s t = .fault .hostBreach := by
  simp [whenIdle, h]

theorem whenIdle_idle {s : State} (h : s.busy = false) (t : State) : whenIdle s t = .next t := by
  simp [whenIdle, h]

theorem hostStep_start_busy {s : State} (h : s.busy = true) : hostStep .start s = .next s := by
  simp [hostStep, h]

theorem hostStep_present_busy {s : State} (h : s.busy = true) (sp : CodeSpace) (bs : List Byte) :
    hostStep (.present sp bs) s = .next s := by
  simp [hostStep, h]

theorem hostTimeout_eq (t : Timeout) (s : State) :
    hostTimeout t s =
      if s.cfg.params.timeoutType.has t = false then .fault .noSuchTimeout else whenIdle s { s with timeout := t } := by
  cases hv : s.cfg.params.timeoutType.has t <;> simp [hostTimeout, hv]

/-- Settles O4: each input acts on the state it was taken from, most of them through `whenIdle`. -/
theorem hostInputs : Obligations.HostInputs := by
  intro s rest
  refine ⟨step_nil, fun hb hx => ?_, fun sp bs hb hx => ?_, fun r v hx hb => ?_, fun r v hx hb => ?_, fun t hx => ?_,
    fun bs hx => ?_, fun bs hx => ?_, fun up hx => ?_, fun n hx hb => ?_, fun n hx hb => ?_⟩ <;> rw [step_cons hx]
  · exact hostStep_start_busy (s := s.setInputs rest) hb
  · exact hostStep_present_busy (s := s.setInputs rest) hb sp bs
  · exact whenIdle_busy hb _
  · exact ⟨writeOperand r v s.opnd, whenIdle_idle hb _, readOperand_writeOperand_same r v _,
      fun q hq => readOperand_writeOperand_ne hq v _⟩
  · exact hostTimeout_eq t (s.setInputs rest)
  · rfl
  · rfl
  · rfl
  · exact whenIdle_busy hb _
  · exact ⟨_, whenIdle_idle hb _, rfl, s.env.afterDrain_all n⟩

end Sys2Proof.Machine
end

section
/-! SUPPORT. Which operation each instruction carries out (`Carries`), said once: its code, its procedure and its results. What holds of the end of every operation is read off this list: the handshake bits and the status, the registers no rule names, and the invariant between operations. -/

namespace Sys2Proof.Machine

open Ret

/-! ## The operation of an instruction -/

/-- What stands between the start and the end of an operation: the code whose error entry it takes, its procedure, and the results its rule names. -/
structure Operation where
  {Val : Type}
  op : State → BitVec 4
  body : State → Ret Val
  results : Val → State → Results × List Byte

/-- The operation started in `s`, run and ended. -/
def Operation.run (o : Operation) (s : State) : Host.Outcome State Fault Refusal := runOp (o.op s) o.body o.results s

/-- The checksum operations with their codes (R120). -/
def checksumRows : List (Instr × BitVec 4) := [(.crc8, 0x1), (.crc16x, 0x2), (.crc16r, 0x3)]

/-- The reserved operations with their codes (R121). -/
def reservedRows : List (Instr × BitVec 4) := [(.reservedOp0, 0x0), (.reservedOpE, 0xE), (.reservedOpF, 0xF)]

/-- The rows of format CODEC with their tags (R111). -/
def codecRows : List (Instr × CodecTag) :=
  [(.codecRaw, .raw), (.codecBounded, .bounded), (.codecScaled, .scaled), (.codecString, .string)]

/-- The rows of format MARKER_VALUE and DIAG_STRING (R112, R113). -/
def ownFieldRows : List Instr := [.markerInvalid, .markerValid, .diagFlashFail, .diagNotReady]

/-- The status codes that wrap another (R293). -/
def wrappingRows : List (Instr × Status) :=
  [(.statusSequenceError, .sequenceError), (.statusChannelInitError, .channelInitError)]

/-- The operation an instruction carries out. The rows that are no operation of the spec are the model's reading (log entries 16 to 22). -/
inductive Carries : Instr → Operation → Prop where
  | checksum {i : Instr} {op : BitVec 4} (row : (i, op) ∈ checksumRows)
      (c : Operands → List Byte → Half) : Carries i ⟨fun _ => op, fun t => .ok (c t.opnd t.outBytes) t, crcResult⟩
  | msp {i : Instr} (row : i ∈ [Instr.mspTransact, .mspFrame]) :
      Carries i ⟨fun _ => 0x4, fun t => mspTransact t.opnd.cmd t.outBytes t.opnd.cap.toNat t, payloadResult⟩
  | send : Carries .e4wSend
      ⟨fun _ => 0x5, fun t => e4wSend (lowByte t.opnd.cmd) t.opnd.addr t.outBytes t, replyResult⟩
  | readFlash : Carries .readFlash
      ⟨fun _ => 0x6, fun t => readFlash t.opnd.addr.toNat t.opnd.len.toNat t, readFlashResult⟩
  | writeFlash : Carries .writeFlash
      ⟨fun _ => 0x7, fun t => writeFlash t.opnd.addr.toNat t.outBytes t, writeFlashResult⟩
  | fetch : Carries .fetch ⟨fun _ => 0x8, fetch, ackOnly⟩
  | getField : Carries .getField ⟨fun _ => 0x9, fun t => getField t.opnd.field t, valueResult⟩
  | setField : Carries .setField
      ⟨fun _ => 0xA,
        fun t => (lookup t.opnd.field t).bind fun e t => (ofExcept t.portValue t).bind fun v t => setField e v t, ackOnly⟩
  | flashAll : Carries .flashAll ⟨fun _ => 0xB, flashAll, flashAllResult⟩
  | selectChannel : Carries .selectChannel ⟨fun _ => 0xC, fun t => selectChannel t.opnd.chan t, ackOnly⟩
  | exitSession : Carries .exitSession ⟨fun _ => 0xD, exitSession, ackOnly⟩
  | reservedOp {i : Instr} {op : BitVec 4}
      (row : (i, op) ∈ reservedRows) :
      Carries i ⟨fun _ => op, fun t => (raise .unknownOp t : Ret Unit), ackOnly⟩
  | status {i : Instr} {e : Status} (row : (i, e) ∈ statusRows) :
      Carries i ⟨fun s => s.opnd.op, fun t => (raise e t : Ret Unit), ackOnly⟩
  | ack {i : Instr} (b : Byte) (row : i ∉ operations) : Carries i ⟨fun _ => 0x5, e4wAck b, ackOnly⟩
  | deviceInit : Carries .e4wDeviceInit ⟨fun _ => 0x5, fun t => deviceInit t.opnd.chan t, ackOnly⟩
  | deviceRead : Carries .e4wDeviceRead
      ⟨fun _ => 0x5,
        fun t => if t.linkUp = false then raise .notConnected t
          else (oneChunk t).bind fun n t => deviceRead t.opnd.addr n t, replyResult⟩
  | deviceWrite : Carries .e4wDeviceWrite ⟨fun _ => 0x5, fun t => deviceWrite t.opnd.addr t.outBytes t, ackOnly⟩
  | exit : Carries .e4wExit ⟨fun _ => 0x5, bootloaderExit, ackOnly⟩
  | requestFrame : Carries .e4wRequestFrame
      ⟨fun _ => 0x5, fun t => e4wPut (lowByte t.opnd.cmd) t.opnd.addr t.outBytes t, ackOnly⟩
  | replyFrame : Carries .e4wReplyFrame
      ⟨fun _ => 0x5, fun t => if t.linkUp = false then raise .notConnected t else e4wReply t, replyResult⟩
  | lengthByte : Carries .e4wLengthByte
      ⟨fun _ => 0x5, fun t => (oneChunk t).bind fun n t => .ok [lenEnc n] t, replyResult⟩
  | settingsBlock : Carries .settingsBlock ⟨fun _ => 0x8, fetchIfAbsent, ackOnly⟩
  | tableEntry : Carries .fieldTableEntry ⟨fun _ => 0x9, fun t => lookup t.opnd.field t, ackOnly⟩
  | codec {i : Instr} {tag : CodecTag}
      (row : (i, tag) ∈ codecRows) : Carries i ⟨fun _ => 0x9, throughCodec tag, valueResult⟩
  | ownField {i : Instr} (row : i ∈ ownFieldRows)
      (field : Params → Byte) (v : Value) :
      Carries i ⟨fun _ => 0xA, fun t => setOwnField (field t.cfg.params) v t, ackOnly⟩

/-- What an instruction is: a host write of a value kind, a refused row, an end of the operation in `OP` at once, or an operation of its own. -/
inductive Means (i : Instr) : Prop where
  | kind (k : BitVec 2) (row : (i, k) ∈ valueKindRows) (eq : ∀ t, exec i t = .next (t.setVkind k))
  | refused (code : Byte) (row : (i, code) ∈ bootloaderRows)
      (eq : ∀ t, exec i t = .refused (.bootloaderSubProtocol code))
  | ok (row : i = .statusOk) (eq : ∀ t, exec i t = .next (t.endOp {} []))
  | commandError (row : i = .statusCommandError)
      (eq : ∀ t, exec i t = .next (t.endOp { status := statusCode .commandError, ack := t.res.ack } []))
  | stepFailed (e : Status) (row : (i, e) ∈ wrappingRows) (eq : ∀ t, exec i t = .next (t.stepFailed e t.res.status))
  | operation (o : Operation) (carries : Carries i o) (eq : ∀ t, exec i t = o.run t)

theorem Means.ofCarries {i : Instr} {o : Operation} (h : Carries i o) (eq : ∀ t, exec i t = o.run t) : Means i :=
  .operation o h eq

/-- Every instruction has one of these meanings. -/
theorem exec_means (i : Instr) : Means i := by
  have status : ∀ {i : Instr} {e : Status}, (i, e) ∈ statusRows → (∀ t, exec i t = endWith e t) → Means i :=
    fun row eq => .ofCarries (.status row) eq
  have ack : ∀ {i : Instr} (b : Byte), i ∉ operations → (∀ t, exec i t = receiveAck b t) → Means i :=
    fun b row eq => .ofCarries (.ack b row) eq
  cases i with
  | crc8 => exact .ofCarries (.checksum (by simp [checksumRows]) fun o bs => (crc8Of bs o.poly).setWidth 16) fun _ => rfl
  | crc16x => exact .ofCarries (.checksum (by simp [checksumRows]) fun o bs => crc16xOf bs o.seed) fun _ => rfl
  | crc16r => exact .ofCarries (.checksum (by simp [checksumRows]) fun _ bs => crc16rOf bs) fun _ => rfl
  | mspTransact => exact .ofCarries (.msp (by simp)) fun _ => rfl
  | e4wSend => exact .ofCarries .send fun _ => rfl
  | readFlash => exact .ofCarries .readFlash fun _ => rfl
  | writeFlash => exact .ofCarries .writeFlash fun _ => rfl
  | fetch => exact .ofCarries .fetch fun _ => rfl
  | getField => exact .ofCarries .getField fun _ => rfl
  | setField => exact .ofCarries .setField fun _ => rfl
  | flashAll => exact .ofCarries .flashAll fun _ => rfl
  | selectChannel => exact .ofCarries .selectChannel fun _ => rfl
  | exitSession => exact .ofCarries .exitSession fun _ => rfl
  | reservedOp0 => exact .ofCarries (.reservedOp (by simp [reservedRows])) fun _ => rfl
  | reservedOpE => exact .ofCarries (.reservedOp (by simp [reservedRows])) fun _ => rfl
  | reservedOpF => exact .ofCarries (.reservedOp (by simp [reservedRows])) fun _ => rfl
  | vkindInt => exact .kind 0 (by simp [valueKindRows]) fun _ => rfl
  | vkindDisabled => exact .kind 1 (by simp [valueKindRows]) fun _ => rfl
  | vkindBytes => exact .kind 2 (by simp [valueKindRows]) fun _ => rfl
  | vkindReserved => exact .kind 3 (by simp [valueKindRows]) fun _ => rfl
  | ackOk => exact ack 0x00 (by simp [operations]) fun _ => rfl
  | ackInvalidCmd => exact ack 0x02 (by simp [operations]) fun _ => rfl
  | ackInvalidCrc => exact ack 0x03 (by simp [operations]) fun _ => rfl
  | ackVerifyError => exact ack 0x04 (by simp [operations]) fun _ => rfl
  | ackInvalidChannel => exact ack 0x08 (by simp [operations]) fun _ => rfl
  | ackInvalidParam => exact ack 0x09 (by simp [operations]) fun _ => rfl
  | ackGeneralError => exact ack 0x0F (by simp [operations]) fun _ => rfl
  | ackUnknown b => exact ack b (by simp [operations]) fun _ => rfl
  | blRun => exact .refused 0x00 (by simp [bootloaderRows]) fun _ => rfl
  | blProgramFlash => exact .refused 0x01 (by simp [bootloaderRows]) fun _ => rfl
  | blEraseFlash => exact .refused 0x02 (by simp [bootloaderRows]) fun _ => rfl
  | blVerifyOrOther3 => exact .refused 0x03 (by simp [bootloaderRows]) fun _ => rfl
  | blVerifyOrOther4 => exact .refused 0x04 (by simp [bootloaderRows]) fun _ => rfl
  | blProgramEeprom => exact .refused 0x05 (by simp [bootloaderRows]) fun _ => rfl
  | blReadSram => exact .refused 0x06 (by simp [bootloaderRows]) fun _ => rfl
  | blKeepAlive => exact .refused 0xFD (by simp [bootloaderRows]) fun _ => rfl
  | blSetBuffer => exact .refused 0xFE (by simp [bootloaderRows]) fun _ => rfl
  | blSetAddress => exact .refused 0xFF (by simp [bootloaderRows]) fun _ => rfl
  | e4wDeviceInit => exact .ofCarries .deviceInit fun _ => rfl
  | e4wDeviceRead => exact .ofCarries .deviceRead fun _ => rfl
  | e4wDeviceWrite => exact .ofCarries .deviceWrite fun _ => rfl
  | e4wExit => exact .ofCarries .exit fun _ => rfl
  | mspFrame => exact .ofCarries (.msp (by simp)) fun _ => rfl
  | e4wRequestFrame => exact .ofCarries .requestFrame fun _ => rfl
  | e4wReplyFrame => exact .ofCarries .replyFrame fun _ => rfl
  | settingsBlock => exact .ofCarries .settingsBlock fun _ => rfl
  | fieldTableEntry => exact .ofCarries .tableEntry fun _ => rfl
  | codecRaw => exact .ofCarries (.codec (tag := .raw) (by simp [codecRows])) fun _ => rfl
  | codecBounded => exact .ofCarries (.codec (tag := .bounded) (by simp [codecRows])) fun _ => rfl
  | codecScaled => exact .ofCarries (.codec (tag := .scaled) (by simp [codecRows])) fun _ => rfl
  | codecString => exact .ofCarries (.codec (tag := .string) (by simp [codecRows])) fun _ => rfl
  | markerInvalid => exact .ofCarries (.ownField (by simp [ownFieldRows]) Params.fMarker (.int 0)) fun _ => rfl
  | markerValid => exact .ofCarries (.ownField (by simp [ownFieldRows]) Params.fMarker (.int 1)) fun _ => rfl
  | diagFlashFail => exact .ofCarries (.ownField (by simp [ownFieldRows]) Params.fName (.bytes flashFailText)) fun _ => rfl
  | diagNotReady => exact .ofCarries (.ownField (by simp [ownFieldRows]) Params.fName (.bytes notReadyText)) fun _ => rfl
  | e4wLengthByte => exact .ofCarries .lengthByte fun _ => rfl
  | statusOk => exact .ok rfl fun _ => rfl
  | statusCommandError => exact .commandError rfl fun _ => rfl
  | statusSequenceError => exact .stepFailed .sequenceError (by simp [wrappingRows]) fun _ => rfl
  | statusChannelInitError => exact .stepFailed .channelInitError (by simp [wrappingRows]) fun _ => rfl
  | statusBadPreamble => exact status (e := .badPreamble) (by simp [statusRows]) fun _ => rfl
  | statusLengthMismatch => exact status (e := .lengthMismatch) (by simp [statusRows]) fun _ => rfl
  | statusCrcMismatch => exact status (e := .crcMismatch) (by simp [statusRows]) fun _ => rfl
  | statusShortRead => exact status (e := .shortRead) (by simp [statusRows]) fun _ => rfl
  | statusShortWrite => exact status (e := .shortWrite) (by simp [statusRows]) fun _ => rfl
  | statusNotConnected => exact status (e := .notConnected) (by simp [statusRows]) fun _ => rfl
  | statusNoChannel => exact status (e := .noChannel) (by simp [statusRows]) fun _ => rfl
  | statusPayloadTooLong => exact status (e := .payloadTooLong) (by simp [statusRows]) fun _ => rfl
  | statusPayloadEmpty => exact status (e := .payloadEmpty) (by simp [statusRows]) fun _ => rfl
  | statusAddressRange => exact status (e := .addressRange) (by simp [statusRows]) fun _ => rfl
  | statusUnknownField => exact status (e := .unknownField) (by simp [statusRows]) fun _ => rfl
  | statusValueUnrepresentable => exact status (e := .valueUnrepresentable) (by simp [statusRows]) fun _ => rfl
  | statusUnknownOp => exact status (e := .unknownOp) (by simp [statusRows]) fun _ => rfl
  | statusBadValueKind => exact status (e := .badValueKind) (by simp [statusRows]) fun _ => rfl

/-- Every procedure of an operation is a run of updates. -/
theorem Carries.ran {i : Instr} {o : Operation} (h : Carries i o) (t : State) : Ran t (o.body t) := by
  cases h with
  | checksum row c => exact .ok _ t
  | msp row => exact mspTransact_ran _ _ _ t
  | send => exact e4wSend_ran _ _ _ t
  | readFlash => exact readFlash_ran _ _ t
  | writeFlash => exact writeFlash_ran _ _ t
  | fetch => exact fetch_ran t
  | getField => exact getField_ran _ t
  | setField => exact (lookup_ran _ t).bind fun e t => (Ran.ofExcept _ t).bind fun v u => setField_ran e v u
  | flashAll => exact flashAll_ran t
  | selectChannel => exact selectChannel_ran _ t
  | exitSession => exact exitSession_ran t
  | reservedOp row => exact .raise _ t
  | status row => exact .raise _ t
  | ack b row => exact e4wAck_ran b t
  | deviceInit => exact deviceInit_ran _ t
  | deviceRead =>
    dsimp only
    split
    · exact .raise _ t
    · exact (oneChunk_ran t).bind fun n u => deviceRead_ran _ n u
  | deviceWrite => exact deviceWrite_ran _ _ t
  | exit => exact bootloaderExit_ran t
  | requestFrame => exact e4wPut_ran _ _ _ t
  | replyFrame =>
    dsimp only
    split
    · exact .raise _ t
    · exact e4wReply_ran t
  | lengthByte => exact (oneChunk_ran t).bind fun n u => .ok _ u
  | settingsBlock => exact fetchIfAbsent_ran t
  | tableEntry => exact lookup_ran _ t
  | codec row => exact throughCodec_ran _ t
  | ownField row field v => exact setOwnField_ran _ v t

/-! ## How an operation ends -/

section
variable {α : Type} {op : BitVec 4} {body : State → Ret α} {results : α → State → Results × List Byte} {s t : State}

theorem runOp_ok {a : α} (h : body s.begin = .ok a t) :
    runOp op body results s = .next (t.endOp (results a t).1 (results a t).2) := by
  simp only [runOp, h]

theorem runOp_raise {e : Status} (h : body s.begin = raise e t) :
    runOp op body results s = .next (raiseEntry op e t) := by
  simp only [runOp, h, raise]

theorem runOp_abandoned (h : body s.begin = .stop .abandoned t) :
    runOp op body results s = .next (t.setEnv t.env.afterAbandon).newSession := by
  simp only [runOp, h]

theorem runOp_broken {f : Fault} (h : body s.begin = .stop (.broken f) t) : runOp op body results s = .fault f := by
  simp only [runOp, h]

end

/-- An operation that goes on ended with its own results, with the error entry, or as a new session. -/
theorem Operation.run_next {o : Operation} {s t : State} (h : o.run s = .next t) :
    (∃ a u, o.body s.begin = .ok a u ∧ t = u.endOp (o.results a u).1 (o.results a u).2) ∨
      (∃ e u, o.body s.begin = .stop (.raised e) u ∧ t = raiseEntry (o.op s) e u) ∨
      ∃ u, o.body s.begin = .stop .abandoned u ∧ t = (u.setEnv u.env.afterAbandon).newSession := by
  have eq : runOp (o.op s) o.body o.results s = .next t := h
  rcases runOp_cases (o.op s) o.body o.results s with
    ⟨a, u, hb, hr⟩ | ⟨e, u, hb, hr⟩ | ⟨u, hb, hr⟩ | ⟨f, u, hb, hr⟩ <;> rw [hr] at eq <;> cases eq
  · exact .inl ⟨a, u, hb, rfl⟩
  · exact .inr (.inl ⟨e, u, hb, rfl⟩)
  · exact .inr (.inr ⟨u, hb, rfl⟩)

/-- With a host that resets the core during no operation, a procedure is not abandoned (R332). -/
theorem Ran.not_abandoned {α : Type} {s t : State} {r : Ret α} (h : Ran s r) (hab : s.env.abandon = []) :
    r ≠ .stop .abandoned t := by
  rintro rfl
  have now := h.abandoned t rfl
  have never : t.env.abandonsNow = false := Env.abandonsNow_of_nil (undisturbed_rel.of_run h.run hab)
  rw [never] at now
  cases now

/-- An operation that is not abandoned ended with its own results or with the error entry. -/
theorem Carries.run_next {i : Instr} {o : Operation} (hc : Carries i o) {s t : State} (hab : s.env.abandon = [])
    (h : o.run s = .next t) :
    (∃ a u, o.body s.begin = .ok a u ∧ t = u.endOp (o.results a u).1 (o.results a u).2) ∨
      ∃ e u, o.body s.begin = .stop (.raised e) u ∧ t = raiseEntry (o.op s) e u := by
  rcases Operation.run_next h with hok | hraised | ⟨u, hb, -⟩
  · exact .inl hok
  · exact .inr hraised
  · exact absurd hb ((hc.ran s.begin).not_abandoned hab)

theorem statusCode_mem (e : Status) : statusCode e ∈ statusCodes := by cases e <;> decide

/-- An operation's own results come with `OK`, no cause, no step and no reserved kind (R28, R290). -/
theorem Carries.results_ok {i : Instr} {o : Operation} (h : Carries i o) (a : o.Val) (t : State) :
    (o.results a t).1.status = 0 ∧ (o.results a t).1.cause = 0 ∧ (o.results a t).1.step = 0 ∧
      (o.results a t).1.vkind ≠ 3 := by
  have value : ∀ v : Value, (valueResult v t).1.status = 0 ∧ (valueResult v t).1.cause = 0 ∧
      (valueResult v t).1.step = 0 ∧ (valueResult v t).1.vkind ≠ 3 := by
    intro v
    cases v <;> exact ⟨rfl, rfl, rfl, by simp [valueResult]⟩
  cases h with
  | getField => exact value a
  | codec row => exact value a
  | _ => exact ⟨rfl, rfl, rfl, (by decide : (0 : BitVec 2) ≠ 3)⟩

/-! ### The error entry (R300) -/

/-- Outside the steps of `FLASH_ALL` an error ends the operation under its own code. -/
theorem raiseEntry_plain {op : BitVec 4} {s : State} (h : ¬(op = 0xB ∧ s.seqStep ≠ 0)) (e : Status) :
    raiseEntry op e s = s.endOp { s.progress op with status := statusCode e } (s.handedOver op) := if_neg h

/-- Inside a step of `FLASH_ALL` an error is wrapped. -/
theorem raiseEntry_wrapped {s : State} (h : s.seqStep ≠ 0) (e : Status) :
    raiseEntry 0xB e s = s.stepFailed s.stepStatus (statusCode e) := if_pos ⟨rfl, h⟩

theorem progress_ack {op : BitVec 4} (h : namesAck op = false) (s : State) : (s.progress op).ack = 0 := by
  simp [State.progress, h]

theorem progress_xfer {op : BitVec 4} (h6 : op ≠ 0x6) (h7 : op ≠ 0x7) (hB : op ≠ 0xB) (s : State) :
    (s.progress op).xfer = 0 := by
  rw [State.progress, if_neg (not_or.2 ⟨h6, h7⟩), if_neg hB]

theorem progress_len {op : BitVec 4} (h : op ≠ 0x6) (s : State) : (s.progress op).len = 0 := if_neg h

theorem handedOver_of_ne {op : BitVec 4} (h : op ≠ 0x6) (s : State) : s.handedOver op = [] := if_neg h

/-- The error entry of an operation whose rule names `R_ACK` alone (R295): codes 0x5, 0x8 to 0xA, 0xC and 0xD. -/
theorem raiseEntry_ack {op : BitVec 4} (h : op ∈ [(0x5 : BitVec 4), 0x8, 0x9, 0xA, 0xC, 0xD]) (e : Status) (s : State) :
    raiseEntry op e s = s.endOp { status := statusCode e, ack := s.res.ack } [] := by
  simp only [List.mem_cons, List.not_mem_nil, or_false] at h
  rcases h with rfl | rfl | rfl | rfl | rfl | rfl <;> rw [raiseEntry_plain (by simp)] <;> rfl

/-- The error entry puts the code of an error into `R_STATUS`. -/
theorem raiseEntry_status (op : BitVec 4) (e : Status) (s : State) :
    ∃ x r bs, raiseEntry op e s = s.endOp r bs ∧ r.status = statusCode x := by
  unfold raiseEntry State.stepFailed
  split <;> exact ⟨_, _, _, rfl, rfl⟩

/-- Settles O14: whether by its own results or by the error entry, an operation ends through `State.endOp`. -/
theorem operationEnds : Obligations.OperationEnds := by
  intro i s t hkind hab h
  have ended : ∀ {u : State} {r : Results} {bs : List Byte}, r.status ∈ statusCodes →
      Ended (u.endOp r bs) ∧ (u.endOp r bs).res.status ∈ statusCodes := fun hr => ⟨⟨rfl, rfl, rfl⟩, hr⟩
  cases exec_means i with
  | kind k row eq => exact absurd row (hkind k)
  | refused code row eq => rw [eq] at h; cases h
  | ok row eq => rw [eq] at h; cases h; exact ended (statusCode_mem .ok)
  | commandError row eq => rw [eq] at h; cases h; exact ended (statusCode_mem .commandError)
  | stepFailed e row eq => rw [eq] at h; cases h; exact ended (statusCode_mem e)
  | operation o hc eq =>
    rw [eq] at h
    rcases hc.run_next hab h with ⟨a, u, -, rfl⟩ | ⟨e, u, -, rfl⟩
    · refine ended ?_
      rw [(hc.results_ok a u).1]
      exact statusCode_mem .ok
    · obtain ⟨x, r, bs, hr, hx⟩ := raiseEntry_status (o.op s) e u
      rw [hr]
      exact ended (hx ▸ statusCode_mem x)

/-! ## The registers no rule names -/

/-- The code of an operation of R120 is its position in the table. -/
theorem Carries.code {i : Instr} {o : Operation} (h : Carries i o) (hi : i ∈ operations) (s : State) :
    operations[(o.op s).toNat]? = some i := by
  cases h with
  | checksum row c =>
    exact (by decide : ∀ x ∈ checksumRows,
      operations[x.2.toNat]? = some x.1) _ row
  | reservedOp row =>
    exact (by decide : ∀ x ∈ reservedRows,
      operations[x.2.toNat]? = some x.1) _ row
  | msp row =>
    exact (by decide : ∀ j ∈ [Instr.mspTransact, .mspFrame], j ∈ operations →
      operations[(0x4 : BitVec 4).toNat]? = some j) _ row hi
  | status row => exact absurd hi ((by decide : ∀ x ∈ statusRows, x.1 ∉ operations) _ row)
  | ack b row => exact absurd hi row
  | codec row =>
    exact absurd hi ((by decide : ∀ x ∈ codecRows, x.1 ∉ operations) _ row)
  | ownField row =>
    exact absurd hi ((by decide : ∀ j ∈ ownFieldRows,
      j ∉ operations) _ row)
  | send => rfl
  | readFlash => rfl
  | writeFlash => rfl
  | fetch => rfl
  | getField => rfl
  | setField => rfl
  | flashAll => rfl
  | selectChannel => rfl
  | exitSession => rfl
  | _ => exact absurd hi (by decide)

/-- Results in which every register the rule of operation `i` does not name is 0 (R28, R295, R300). -/
structure NamesOnly (i : Instr) (r : Results) (bs : List Byte) : Prop where
  crc : i ∉ [Instr.crc8, .crc16x, .crc16r] → r.crc = 0
  value : i ≠ .getField → r.vkind = 0 ∧ r.value = 0
  step : i ≠ .flashAll → r.step = 0 ∧ r.cause = 0
  xfer : i ∉ [Instr.readFlash, .writeFlash, .flashAll] → r.xfer = 0
  payload : i ∉ [Instr.mspTransact, .e4wSend, .readFlash, .getField] → r.len = 0 ∧ bs = []
  failed : i ∉ [Instr.readFlash] → r.status ≠ 0 → r.len = 0 ∧ bs = []
  ack : i ∈ [Instr.crc8, .crc16x, .crc16r, .mspTransact, .reservedOp0, .reservedOpE, .reservedOpF] → r.ack = 0

/-- The results of an operation's own. -/
theorem Carries.results_namesOnly {i : Instr} {o : Operation} (h : Carries i o) (hi : i ∈ operations) (s t : State)
    (a : o.Val) (ha : o.body s = .ok a t) : NamesOnly i (o.results a t).1 (o.results a t).2 := by
  have ok := (h.results_ok a t).1
  have failed : i ∉ [Instr.readFlash] → (o.results a t).1.status ≠ 0 →
      (o.results a t).1.len = 0 ∧ (o.results a t).2 = [] := fun _ hne => absurd ok hne
  cases h with
  | checksum row c =>
    have hcrc := (by decide : ∀ x ∈ checksumRows,
      x.1 ∈ [Instr.crc8, .crc16x, .crc16r]) _ row
    exact ⟨fun h => absurd hcrc h, fun _ => ⟨rfl, rfl⟩, fun _ => ⟨rfl, rfl⟩, fun _ => rfl, fun _ => ⟨rfl, rfl⟩, failed,
      fun _ => rfl⟩
  | msp row =>
    have hmsp := (by decide : ∀ j ∈ [Instr.mspTransact, .mspFrame], j ∈ operations →
      j ∈ [Instr.mspTransact, .e4wSend, .readFlash, .getField]) _ row hi
    exact ⟨fun _ => rfl, fun _ => ⟨rfl, rfl⟩, fun _ => ⟨rfl, rfl⟩, fun _ => rfl, fun h => absurd hmsp h, failed,
      fun _ => rfl⟩
  | getField =>
    exact ⟨fun _ => by cases a <;> rfl, fun h => absurd rfl h, fun _ => by cases a <;> exact ⟨rfl, rfl⟩,
      fun _ => by cases a <;> rfl, fun h => absurd (by simp) h, failed, fun h => absurd h (by decide)⟩
  | send =>
    exact ⟨fun _ => rfl, fun _ => ⟨rfl, rfl⟩, fun _ => ⟨rfl, rfl⟩, fun _ => rfl, fun h => absurd (by decide) h, failed,
      fun h => absurd h (by decide)⟩
  | readFlash =>
    exact ⟨fun _ => rfl, fun _ => ⟨rfl, rfl⟩, fun _ => ⟨rfl, rfl⟩, fun h => absurd (by decide) h,
      fun h => absurd (by decide) h, failed, fun h => absurd h (by decide)⟩
  | writeFlash | flashAll =>
    exact ⟨fun _ => rfl, fun _ => ⟨rfl, rfl⟩, fun _ => ⟨rfl, rfl⟩, fun h => absurd (by decide) h, fun _ => ⟨rfl, rfl⟩,
      failed, fun h => absurd h (by decide)⟩
  | fetch | setField | selectChannel | exitSession =>
    exact ⟨fun _ => rfl, fun _ => ⟨rfl, rfl⟩, fun _ => ⟨rfl, rfl⟩, fun _ => rfl, fun _ => ⟨rfl, rfl⟩, failed,
      fun h => absurd h (by decide)⟩
  | reservedOp row => cases ha
  | status row => cases ha
  | ack b row => exact absurd hi row
  | codec row =>
    exact absurd hi ((by decide : ∀ x ∈ codecRows, x.1 ∉ operations) _ row)
  | ownField row =>
    exact absurd hi ((by decide : ∀ j ∈ ownFieldRows,
      j ∉ operations) _ row)
  | _ => exact absurd hi (by decide)

/-- The error entry of the operation with the code of `i`. -/
theorem raiseEntry_namesOnly {i : Instr} {op : BitVec 4} (hop : operations[op.toNat]? = some i) (e : Status)
    (s : State) : NamesOnly i (raiseEntry op e s).res (raiseEntry op e s).inbuf := by
  have ne : ∀ (k : BitVec 4) (j : Instr), operations[k.toNat]? = some j → i ≠ j → op ≠ k := by
    rintro k j hk hij rfl
    exact hij (Option.some.inj (hop.symm.trans hk))
  have hread : i ≠ .readFlash → op ≠ 0x6 := ne 0x6 .readFlash rfl
  have hwrite : i ≠ .writeFlash → op ≠ 0x7 := ne 0x7 .writeFlash rfl
  have hflash : i ≠ .flashAll → op ≠ 0xB := ne 0xB .flashAll rfl
  have hack : i ∈ [Instr.crc8, .crc16x, .crc16r, .mspTransact, .reservedOp0, .reservedOpE, .reservedOpF] →
      namesAck op = false :=
    (by decide : ∀ op : BitVec 4, ∀ j ∈ operations[op.toNat]?,
      j ∈ [Instr.crc8, .crc16x, .crc16r, .mspTransact, .reservedOp0, .reservedOpE, .reservedOpF] →
        namesAck op = false) op i hop
  by_cases hstep : op = 0xB ∧ s.seqStep ≠ 0
  · obtain ⟨rfl, hne⟩ := hstep
    obtain rfl : i = .flashAll := (Option.some.inj hop).symm
    rw [raiseEntry_wrapped hne]
    exact ⟨fun _ => rfl, fun _ => ⟨rfl, rfl⟩, fun h => absurd rfl h, fun h => absurd (by decide) h, fun _ => ⟨rfl, rfl⟩,
      fun _ _ => ⟨rfl, rfl⟩, fun h => absurd h (by decide)⟩
  · rw [raiseEntry_plain hstep]
    have len : i ≠ .readFlash → (s.progress op).len = 0 ∧ s.handedOver op = [] :=
      fun h => ⟨progress_len (hread h) s, handedOver_of_ne (hread h) s⟩
    refine ⟨fun _ => rfl, fun _ => ⟨rfl, rfl⟩, fun _ => ⟨rfl, rfl⟩, fun h => ?_, fun h => len ?_, fun h _ => len ?_,
      fun h => progress_ack (hack h) s⟩
    · simp only [List.mem_cons, not_or] at h
      obtain ⟨h6, h7, hB, -⟩ := h
      exact progress_xfer (hread h6) (hwrite h7) (hflash hB) s
    · rintro rfl; exact h (by decide)
    · rintro rfl; exact h (by decide)

/-- Settles O15: by its own results as by the error entry, an operation writes only the registers its rule names. -/
theorem unnamedResultsZero : Obligations.UnnamedResultsZero := by
  intro i s t hi hab h
  have named : NamesOnly i t.res t.inbuf := by
    cases exec_means i with
    | kind k row eq => exact absurd hi ((by decide : ∀ x ∈ valueKindRows, x.1 ∉ operations) _ row)
    | refused code row eq => rw [eq] at h; cases h
    | ok row eq => rw [row] at hi; exact absurd hi (by decide)
    | commandError row eq => rw [row] at hi; exact absurd hi (by decide)
    | stepFailed e row eq =>
      exact absurd hi ((by decide : ∀ x ∈ wrappingRows, x.1 ∉ operations) _ row)
    | operation o hc eq =>
      rw [eq] at h
      rcases hc.run_next hab h with ⟨a, u, ha, rfl⟩ | ⟨e, u, -, rfl⟩
      · exact hc.results_namesOnly hi _ u a ha
      · exact raiseEntry_namesOnly (hc.code hi s) e u
  obtain ⟨crc, value, step, xfer, payload, failed, ack⟩ := named
  exact ⟨crc, value, step, xfer, payload, failed, ack⟩

end Sys2Proof.Machine
end

section
/-! SUPPORT. The invariant between operations: that every end of an operation leaves legal codes and lengths in the result registers, and that every host input keeps it. -/

namespace Sys2Proof.Machine

open Ret

/-! ## Lengths of what is handed back -/

theorem e4wCheck_ok_length {h b p : List Byte} {s t : State} (eq : e4wCheck h b s = .ok p t) : p.length ≤ 256 := by
  unfold e4wCheck at eq
  split at eq
  · cases eq
  · obtain ⟨_, u, -, hp⟩ := Ret.bind_eq_ok.1 eq
    cases hp
    have := lenDec_range (h.getD 4 0)
    simp only [List.length_take, e4wDeclared]
    omega

theorem e4wReply_ok_length {p : List Byte} {s t : State} (eq : e4wReply s = .ok p t) : p.length ≤ 256 := by
  unfold e4wReply at eq
  obtain ⟨h, u, -, eq⟩ := Ret.bind_eq_ok.1 eq
  split at eq
  · cases eq
  obtain ⟨b, v, -, eq⟩ := Ret.bind_eq_ok.1 eq
  split at eq
  · cases eq
  · exact e4wCheck_ok_length eq

theorem e4wSend_ok_length {cmd : Byte} {addr : Half} {out p : List Byte} {s t : State}
    (eq : e4wSend cmd addr out s = .ok p t) : p.length ≤ 256 := by
  obtain ⟨_, u, -, hreply⟩ := Ret.bind_eq_ok.1 eq
  exact e4wReply_ok_length hreply

theorem deviceRead_ok_length {addr : Half} {n : Nat} {p : List Byte} {s t : State}
    (eq : deviceRead addr n s = .ok p t) : p.length ≤ 256 := by
  obtain ⟨q, u, hsend, eq⟩ := Ret.bind_eq_ok.1 eq
  split at eq
  · cases eq
  · cases eq; exact e4wSend_ok_length hsend

theorem mspParse_ok_length {p : Params} {cap : Nat} {rx k : List Byte} (eq : mspParse p cap rx = .ok k) :
    k.length ≤ 65535 := by
  have size : mspSize rx ≤ 65535 := by
    have := (unle16 (rx.drop 6)).isLt
    unfold mspSize
    omega
  unfold mspParse at eq
  iterate 4
    split at eq
    · cases eq
  cases eq
  simp only [List.length_take]
  omega

theorem mspTransact_ok_length {cmd : Half} {out k : List Byte} {cap : Nat} {s t : State}
    (eq : mspTransact cmd out cap s = .ok k t) : k.length ≤ 65535 := by
  unfold mspTransact at eq
  split at eq
  · cases eq
  split at eq
  · cases eq
  obtain ⟨w, u, -, eq⟩ := Ret.bind_eq_ok.1 eq
  split at eq
  · cases eq
  obtain ⟨rx, v, -, eq⟩ := Ret.bind_eq_ok.1 eq
  cases hx : mspParse v.cfg.params cap rx with
  | error e => rw [hx] at eq; cases eq
  | ok q => rw [hx] at eq; cases eq; exact mspParse_ok_length hx

theorem ofExcept_ok {α : Type} {x : Except Status α} {a : α} {s t : State} (h : ofExcept x s = .ok a t) :
    x = .ok a ∧ t = s := by
  cases x with
  | ok b => cases h; exact ⟨rfl, rfl⟩
  | error e => cases h

/-- The value is what some codec makes of the bytes of a field. -/
def FieldValue (v : Value) : Prop := ∃ c raw, raw.length ≤ 174 ∧ v = decodeValue c raw

theorem getField_ok_value {i : Byte} {v : Value} {s t : State} (eq : getField i s = .ok v t) : FieldValue v := by
  obtain ⟨e, u, hlook, hrest⟩ := Ret.bind_eq_ok.1 eq
  obtain ⟨_, w, -, hlines⟩ := Ret.bind_eq_ok.1 hrest
  obtain ⟨raw, x, hread, hval⟩ := Ret.bind_eq_ok.1 hlines
  cases hval
  have width := (find_range (lookup_ok hlook).2).2
  unfold memRead at hread
  split at hread <;> cases hread
  exact ⟨e.codec, _, by rw [readBytes_length]; omega, rfl⟩

theorem throughCodec_ok_value {tag : CodecTag} {v : Value} {s t : State} (eq : throughCodec tag s = .ok v t) :
    FieldValue v := by
  obtain ⟨e, u, hlook, hrest⟩ := Ret.bind_eq_ok.1 eq
  have width := (find_range (lookup_ok hlook).2).2
  split at hrest
  · cases hrest
  obtain ⟨x, w, -, hlines⟩ := Ret.bind_eq_ok.1 hrest
  obtain ⟨raw, y, henc, hval⟩ := Ret.bind_eq_ok.1 hlines
  cases hval
  have := encodeValue_length (ofExcept_ok henc).1
  exact ⟨e.codec, raw, by omega, rfl⟩

/-! ## Legal results -/

/-- Codes, a step and a kind the host may find in the result registers, and `R_LEN` the number of bytes handed over (R28, R290). -/
structure LegalResults (r : Results) (bs : List Byte) : Prop where
  status : r.status ∈ statusCodes
  cause : r.cause ∈ statusCodes
  step : r.step.toNat ≤ 8
  vkind : r.vkind ≠ 3
  len : r.len.toNat = bs.length

/-- An operation that ends with legal results leaves the invariant. -/
theorem inv_endOp {s : State} {r : Results} {bs : List Byte} (hm : Memory.wf s.mem)
    (ht : s.cfg.params.timeoutType.has s.timeout = true) (h : LegalResults r bs) : (s.endOp r bs).inv :=
  ⟨hm, rfl, rfl, rfl, rfl, ht, h.status, h.cause, h.step, h.vkind, h.len⟩

theorem timeoutType_has_zero (c : TimeoutType) : c.has 0 = true := by cases c <;> simp [TimeoutType.has]

/-- A new session has the invariant, whatever was abandoned (log entries 3 and 4). -/
theorem inv_newSession (s : State) : s.newSession.inv :=
  ⟨wf_nil, rfl, rfl, rfl, rfl, timeoutType_has_zero _, statusCode_mem .ok, statusCode_mem .ok,
    (by decide : (0 : BitVec 4).toNat ≤ 8), (by decide : (0 : BitVec 2) ≠ 3), rfl⟩

theorem valueResult_len {v : Value} (hv : FieldValue v) (t : State) :
    (valueResult v t).1.len.toNat = (valueResult v t).2.length := by
  obtain ⟨c, raw, hraw, rfl⟩ := hv
  have bytes : (BitVec.ofNat 32 raw.length).toNat = raw.length := by
    rw [BitVec.toNat_ofNat]; omega
  cases c with
  | raw => rfl
  | bounded lo hi d =>
    cases d with
    | none => rfl
    | some d => by_cases h : rawInt raw = d <;> simp [decodeValue, h, valueResult]
  | scaled num den offn => rfl
  | string => exact bytes

/-- An operation that ends with its own results hands over `R_LEN` bytes (R28). -/
theorem Carries.results_len {i : Instr} {o : Operation} (h : Carries i o) {s t : State} {a : o.Val}
    (ha : o.body s = .ok a t) : (o.results a t).1.len.toNat = (o.results a t).2.length := by
  have short : ∀ p : List Byte, p.length ≤ 65535 → (BitVec.ofNat 32 p.length).toNat = p.length := by
    intro p hp
    rw [BitVec.toNat_ofNat]
    omega
  cases h with
  | msp row => exact short _ (mspTransact_ok_length ha)
  | send => exact short _ (le_trans (e4wSend_ok_length ha) (by omega))
  | deviceRead =>
    dsimp only at ha
    split at ha
    · cases ha
    · obtain ⟨n, u, -, hread⟩ := Ret.bind_eq_ok.1 ha
      exact short _ (le_trans (deviceRead_ok_length hread) (by omega))
  | replyFrame =>
    dsimp only at ha
    split at ha
    · cases ha
    · exact short _ (le_trans (e4wReply_ok_length ha) (by omega))
  | lengthByte =>
    obtain ⟨n, u, -, hbyte⟩ := Ret.bind_eq_ok.1 ha
    cases hbyte
    rfl
  | readFlash =>
    have opnd : t.opnd = s.opnd := by
      have host := sameHost_rel.readFlash s.opnd.addr.toNat s.opnd.len.toNat s
      rw [show Machine.readFlash s.opnd.addr.toNat s.opnd.len.toNat s = .ok a t from ha] at host
      exact host.2.2.1
    show t.opnd.len.toNat = t.inbuf.length
    rw [opnd, readFlash_ok_length ha]
  | getField => exact valueResult_len (getField_ok_value ha) t
  | codec row => exact valueResult_len (throughCodec_ok_value ha) t
  | _ => rfl

theorem Carries.results_legal {i : Instr} {o : Operation} (h : Carries i o) {s t : State} {a : o.Val}
    (ha : o.body s = .ok a t) : LegalResults (o.results a t).1 (o.results a t).2 := by
  obtain ⟨status, cause, step, vkind⟩ := h.results_ok a t
  exact ⟨status ▸ statusCode_mem .ok, cause ▸ statusCode_mem .ok, by rw [step]; decide, vkind, h.results_len ha⟩

/-! ## Progress at an error -/

/-- `R_XFER` counts the bytes gathered in `INBUF` (R190). -/
def Gathered (s : State) : Prop := s.res.xfer = BitVec.ofNat 32 s.inbuf.length

theorem Gathered.toNat {s : State} (h : Gathered s) (hb : s.inbuf.length ≤ 65792) :
    s.res.xfer.toNat = s.inbuf.length := by
  rw [h, BitVec.toNat_ofNat]
  omega

/-- One transaction gathers nothing. -/
theorem deviceRead_gathered (addr : Half) (n : Nat) {s : State} (h : Gathered s) :
    Gathered (deviceRead addr n s).state ∧ (deviceRead addr n s).state.inbuf = s.inbuf := by
  obtain ⟨inbuf, xfer, -⟩ := transactionRel.deviceRead addr n s
  exact ⟨by rw [Gathered, xfer, inbuf]; exact h, inbuf⟩

theorem Gathered.tookChunk {s : State} (h : Gathered s) (p : List Byte) : Gathered (s.tookChunk p) := by
  show s.res.xfer + BitVec.ofNat 32 p.length = BitVec.ofNat 32 (s.inbuf ++ p).length
  rw [h, List.length_append, BitVec.ofNat_add]

/-- However a chunked read ends, `R_XFER` counts what it has gathered, at most 256 bytes a chunk. -/
theorem readChunks_gathered (addr len k i : Nat) {s : State} (h : Gathered s) :
    Gathered (readChunks addr len k i s).state ∧
      (readChunks addr len k i s).state.inbuf.length ≤ s.inbuf.length + 256 * k := by
  induction k generalizing i s with
  | zero => exact ⟨h, by simp [readChunks]⟩
  | succ k ih =>
    obtain ⟨hg, hin⟩ := deviceRead_gathered (chunkAddr addr i) (chunkLen len i) h
    rw [readChunks]
    cases hr : deviceRead (chunkAddr addr i) (chunkLen len i) s with
    | stop e t =>
      rw [hr] at hg hin
      have hin : t.inbuf = s.inbuf := hin
      exact ⟨hg, by simp only [Ret.bind_stop, Ret.state_stop, hin]; omega⟩
    | ok p t =>
      rw [hr] at hg hin
      have hin : t.inbuf = s.inbuf := hin
      obtain ⟨g, l⟩ := ih (i + 1) (Gathered.tookChunk hg p)
      refine ⟨g, le_trans l ?_⟩
      have := deviceRead_ok_length hr
      simp only [State.tookChunk, State.setXfer_inbuf, State.setInbuf_inbuf, List.length_append, Ret.state_ok, hin]
      omega

/-- However a flash read ends, `R_XFER` is the number of bytes it hands over (R190). -/
theorem readFlash_gathered (addr len : Nat) {s : State} (hx : s.res.xfer = 0) (hi : s.inbuf = []) :
    (readFlash addr len s).state.res.xfer.toNat = (readFlash addr len s).state.inbuf.length := by
  rw [readFlash]
  cases hadm : admitTransfer addr len s with
  | stop e t =>
    have same := transactionRel.admitTransfer addr len s
    rw [hadm] at same
    obtain ⟨inbuf, xfer, -⟩ := same
    simp only [Ret.state_stop] at inbuf xfer
    simp [inbuf, xfer, hx, hi]
  | ok u t =>
    obtain ⟨rfl, -, -, hrange⟩ := admitTransfer_ok hadm
    have begun : Gathered ((t.setXfer 0).setInbuf []) := rfl
    obtain ⟨g, l⟩ := readChunks_gathered addr len (chunkCount len) 0 begun
    refine g.toNat (le_trans l ?_)
    simp only [State.setInbuf_inbuf, List.length_nil, chunkCount]
    omega

/-- A step of `FLASH_ALL` leaves `SEQ_STEP` as it found it. -/
theorem seqStep_cacheRel : CacheRel (fun s t => t.seqStep = s.seqStep) := by
  refine ⟨⟨⟨?_, ?_, ?_, ?_, ?_, ?_, ?_⟩, ?_, ?_⟩, ?_, ?_⟩ <;> intros <;> simp_all

theorem seqStep_channelRel : ChannelRel (fun s t => t.seqStep = s.seqStep) :=
  ⟨seqStep_cacheRel.toTransportRel, fun _ => rfl, fun _ _ => rfl⟩

/-- `SEQ_STEP` is a step of `FLASH_ALL` or 0 (R25). -/
def InStep (_ t : State) : Prop := t.seqStep.toNat ≤ 8

theorem InStep.trans (a b c : State) (_ : InStep a b) (h : InStep b c) : InStep a c := h

theorem seqStepDo_inStep {k : BitVec 4} {p : State → Ret Unit} {s : State} (hk : k.toNat ≤ 8)
    (hp : ∀ t, (p t).state.seqStep = t.seqStep) : InStep s (seqStepDo k p s).state := by
  show (p (s.setSeqStep k)).state.seqStep.toNat ≤ 8
  rw [hp]
  exact hk

/-- However they end, the steps of `FLASH_ALL` end in a step (R25). -/
theorem flashSteps_inStep (fw : List Byte) (s : State) : InStep s (flashSteps fw s).state := by
  unfold flashSteps
  refine Ret.bind_rel InStep.trans (seqStepDo_inStep (by decide) fun u => seqStep_channelRel.selectChannel _ u) fun _ _ _ => ?_
  refine Ret.bind_rel InStep.trans (seqStepDo_inStep (by decide) fun u => seqStep_cacheRel.setOwnField _ _ u) fun _ _ _ => ?_
  refine Ret.bind_rel InStep.trans (seqStepDo_inStep (by decide) fun u => seqStep_cacheRel.setOwnField _ _ u) fun _ _ _ => ?_
  refine Ret.bind_rel InStep.trans (seqStepDo_inStep (by decide) fun u => seqStep_cacheRel.resetVersion u) fun _ _ _ => ?_
  refine Ret.bind_rel InStep.trans (seqStepDo_inStep (by decide) fun u => seqStep_cacheRel.writeFlash _ _ u) fun _ _ _ => ?_
  refine Ret.bind_rel InStep.trans (seqStepDo_inStep (by decide) fun u => seqStep_cacheRel.setOwnField _ _ u) fun _ _ _ => ?_
  refine Ret.bind_rel InStep.trans (seqStepDo_inStep (by decide) fun u => seqStep_cacheRel.setOwnField _ _ u) fun _ _ _ => ?_
  exact seqStepDo_inStep (by decide) fun u => seqStep_channelRel.exitSession u

theorem flashAll_seqStep {s : State} (h : s.seqStep = 0) : (flashAll s).state.seqStep.toNat ≤ 8 := by
  have idle : s.seqStep.toNat ≤ 8 := by rw [h]; decide
  unfold flashAll fwBytes
  split
  · exact idle
  split
  · exact idle
  split
  · exact flashSteps_inStep _ s
  · exact idle

/-- At an error, `SEQ_STEP` is a step of `FLASH_ALL`, and `READ_FLASH` hands over as many bytes as it counts. -/
theorem Carries.stop_progress {i : Instr} {o : Operation} (h : Carries i o) {s t : State} {e : Stop}
    (ht : o.body s.begin = .stop e t) :
    (o.op s = 0xB → t.seqStep.toNat ≤ 8) ∧ (o.op s = 0x6 → t.res.xfer.toNat = t.inbuf.length) := by
  have state : (o.body s.begin).state = t := by rw [ht]; rfl
  cases h with
  | checksum row c => cases ht
  | flashAll => exact ⟨fun _ => state ▸ flashAll_seqStep rfl, fun h => by simp at h⟩
  | readFlash => exact ⟨fun h => by simp at h, fun _ => state ▸ readFlash_gathered _ _ rfl rfl⟩
  | reservedOp row => cases ht; exact ⟨fun _ => by simp [State.begin], fun _ => rfl⟩
  | status row => cases ht; exact ⟨fun _ => by simp [State.begin], fun _ => rfl⟩
  | _ => exact ⟨fun h => by simp at h, fun h => by simp at h⟩

theorem stepFailed_legal {s : State} {e : Status} {cause : Byte} (hc : cause ∈ statusCodes)
    (hs : s.seqStep.toNat ≤ 8) :
    LegalResults { s.progress 0xB with status := statusCode e, cause := cause, step := s.seqStep } [] :=
  ⟨statusCode_mem e, hc, hs, (by decide : (0 : BitVec 2) ≠ 3), rfl⟩

/-- The error entry leaves the invariant. -/
theorem inv_raiseEntry {op : BitVec 4} {e : Status} {s : State} (hm : Memory.wf s.mem)
    (ht : s.cfg.params.timeoutType.has s.timeout = true) (hB : op = 0xB → s.seqStep.toNat ≤ 8)
    (h6 : op = 0x6 → s.res.xfer.toNat = s.inbuf.length) : (raiseEntry op e s).inv := by
  by_cases hstep : op = 0xB ∧ s.seqStep ≠ 0
  · obtain ⟨rfl, hne⟩ := hstep
    rw [raiseEntry_wrapped hne]
    exact inv_endOp hm ht (stepFailed_legal (statusCode_mem e) (hB rfl))
  · rw [raiseEntry_plain hstep]
    refine inv_endOp hm ht ⟨statusCode_mem e, statusCode_mem .ok, by simp [State.progress],
      (by decide : (0 : BitVec 2) ≠ 3), ?_⟩
    by_cases hop : op = 0x6
    · subst hop
      exact h6 rfl
    · show (s.progress op).len.toNat = (s.handedOver op).length
      rw [progress_len hop, handedOver_of_ne hop]
      rfl

/-! ## Steps -/

/-- Every instruction keeps the invariant. -/
theorem exec_inv {i : Instr} {s t : State} (hs : s.inv) (h : exec i s = .next t) : t.inv := by
  obtain ⟨mem, -, idle, -, -, timeout, status, -⟩ := id hs
  cases exec_means i with
  | kind k row eq => rw [eq] at h; cases h; exact hs
  | refused code row eq => rw [eq] at h; cases h
  | ok row eq =>
    rw [eq] at h; cases h
    exact inv_endOp mem timeout ⟨statusCode_mem .ok, statusCode_mem .ok, by decide, by decide, rfl⟩
  | commandError row eq =>
    rw [eq] at h; cases h
    exact inv_endOp mem timeout ⟨statusCode_mem .commandError, statusCode_mem .ok, (by decide : (0 : BitVec 4).toNat ≤ 8),
      (by decide : (0 : BitVec 2) ≠ 3), rfl⟩
  | stepFailed e row eq =>
    rw [eq] at h; cases h
    exact inv_endOp mem timeout (stepFailed_legal status (by rw [idle]; decide))
  | operation o hc eq =>
    rw [eq] at h
    have kept : ∀ {u : State}, Run s.begin u → Memory.wf u.mem ∧ u.cfg.params.timeoutType.has u.timeout = true := by
      intro u run
      obtain ⟨cfg, tmo, -⟩ := sameHost_rel.of_run run
      exact ⟨memory_wf_rel.of_run run mem, by rw [cfg, tmo]; exact timeout⟩
    have run := (hc.ran s.begin).run
    rcases Operation.run_next h with ⟨a, u, hb, rfl⟩ | ⟨e, u, hb, rfl⟩ | ⟨u, hb, rfl⟩
    · rw [hb] at run
      obtain ⟨hm, ht⟩ := kept run
      exact inv_endOp hm ht (hc.results_legal hb)
    · rw [hb] at run
      obtain ⟨hm, ht⟩ := kept run
      obtain ⟨hB, h6⟩ := hc.stop_progress hb
      exact inv_raiseEntry hm ht hB h6
    · exact inv_newSession _

/-- Every host input keeps the invariant. -/
theorem hostStep_inv {x : HostInput} {s t : State} (hs : s.inv) (h : hostStep x s = .next t) : t.inv := by
  have code : ∀ {sp : CodeSpace} {bs : List Byte},
      (if s.busy then .next s else runCode sp bs s) = Host.Outcome.next t → t.inv := by
    intro sp bs h
    rcases runCode_unless_busy_next h with ⟨i, hi⟩ | rfl
    · exact exec_inv hs hi
    · exact hs
  cases x with
  | start => exact code h
  | present sp bs => exact code h
  | operand r v => obtain ⟨-, rfl⟩ := whenIdle_next h; exact hs
  | timeout v =>
    obtain ⟨mem, busy, seqStep, tx, rx, -, results⟩ := hs
    simp only [hostStep, hostTimeout] at h
    split at h
    · obtain ⟨-, rfl⟩ := whenIdle_next h
      exact ⟨mem, busy, seqStep, tx, rx, ‹_›, results⟩
    · cases h
  | outbuf bs => obtain ⟨-, rfl⟩ := whenIdle_next h; exact hs
  | firmware bs => obtain ⟨-, rfl⟩ := whenIdle_next h; exact hs
  | link up => obtain ⟨-, rfl⟩ := whenIdle_next h; exact hs
  | drain n => obtain ⟨-, rfl⟩ := whenIdle_next h; exact hs
  | reset => cases h; exact inv_newSession s

/-- Settles O7: the invariant is kept by every instruction and by every other host input. -/
theorem invariantKept : Obligations.InvariantKept := by
  intro s t hs h
  cases hx : s.inputs with
  | nil => rw [step_nil hx] at h; cases h; exact hs
  | cons x rest =>
    rw [step_cons hx] at h
    have taken : (s.setInputs rest).inv := hs
    exact hostStep_inv taken h

/-- Settles O8: the state after reset is a new session of itself. -/
theorem invariantAtReset : Obligations.InvariantAtReset := inv_newSession State.reset

/-! ## Reset and the decoding of `OP` -/

/-- Settles O5: a reset is the model's `State.newSession`, and so is the state after power-on. -/
theorem resetSession : Obligations.ResetSession := by
  refine ⟨fun s rest hx => ⟨(s.setInputs rest).newSession, step_cons hx, ?_⟩, ?_⟩
  · exact ⟨rfl, rfl, rfl, rfl, rfl, rfl, rfl, rfl, rfl, rfl, rfl, rfl⟩
  · exact ⟨rfl, rfl, rfl, rfl, rfl, rfl, rfl⟩

/-- Every code of `OP` is the operation at its position in the table of R120. -/
theorem decodeHostOp_op (op : BitVec 4) :
    ∃ i, operations[op.toNat]? = some i ∧ decodeHostOp (op.setWidth 8) = some i := by
  have table : ∀ op : BitVec 4, operations[op.toNat]? = decodeHostOp (op.setWidth 8) := by decide
  have lt : op.toNat < operations.length := op.isLt
  exact ⟨operations[op.toNat], by simp [lt], by rw [← table op]; simp [lt]⟩

theorem decode_op {p : Params} {op : BitVec 4} {i : Instr} (h : decodeHostOp (op.setWidth 8) = some i) :
    decode p .hostOp [op.setWidth 8] = .ok i := by
  simp only [decode, decodeByte, h]

theorem runCode_of_decode {sp : CodeSpace} {bs : List Byte} {i : Instr} {s : State}
    (h : decode s.cfg.params sp bs = .ok i) : runCode sp bs s = exec i s := by
  simp only [runCode, h]

/-- Settles O3: the step takes the input, decodes the bytes in their place and runs the instruction. -/
theorem stepRunsDecoded : Obligations.StepRunsDecoded := by
  intro s rest idle
  have accepted : ∀ sp bs i, decode s.cfg.params sp bs = .ok i →
      (if (s.setInputs rest).busy then .next (s.setInputs rest) else runCode sp bs (s.setInputs rest)) =
        exec i { s with inputs := rest } := by
    intro sp bs i hd
    have notBusy : (s.setInputs rest).busy = false := idle
    rw [notBusy, if_neg (by simp)]
    exact runCode_of_decode (s := s.setInputs rest) hd
  refine ⟨fun hx => ?_, fun sp bs i hx hd => ?_⟩
  · obtain ⟨i, hi, hop⟩ := decodeHostOp_op s.opnd.op
    have hd := decode_op (p := s.cfg.params) hop
    exact ⟨i, hi, hd, (step_cons hx).trans (accepted .hostOp _ i hd)⟩
  · exact (step_cons hx).trans (accepted sp bs i hd)

end Sys2Proof.Machine
end

section
/-! SUPPORT. Frames of every instruction: a relation kept by the start and the end of an operation and by its procedure holds across the instruction (`exec_rel`). The mirror, the channel, the reserved bytes, and a stream with the link down. -/

namespace Sys2Proof.Machine

open Ret

/-! ## Relations across an instruction -/

/-- `R` holds across what stands around the procedure of an operation: its start, its end, and the host write of a value kind. -/
structure EndRel (R : State → State → Prop) : Prop where
  refl : ∀ s, R s s
  kind : ∀ s k, R s (s.setVkind k)
  began : ∀ s t, R s.begin t → R s t
  ended : ∀ s t r bs, R s t → R s (t.endOp r bs)

/-- A relation kept by the procedure of an operation that is not abandoned holds across the instruction. -/
theorem exec_rel {R : State → State → Prop} (hR : EndRel R) {i : Instr} {s t : State} (h : exec i s = .next t)
    (goesOn : ∀ o u, Carries i o → o.body s.begin ≠ .stop .abandoned u)
    (body : ∀ o, Carries i o → R s.begin (o.body s.begin).state) : R s t := by
  cases exec_means i with
  | kind k row eq => rw [eq] at h; cases h; exact hR.kind s k
  | refused code row eq => rw [eq] at h; cases h
  | ok row eq => rw [eq] at h; cases h; exact hR.ended s s _ _ (hR.refl s)
  | commandError row eq => rw [eq] at h; cases h; exact hR.ended s s _ _ (hR.refl s)
  | stepFailed e row eq => rw [eq] at h; cases h; exact hR.ended s s _ _ (hR.refl s)
  | operation o hc eq =>
    rw [eq] at h
    have across := body o hc
    rcases Operation.run_next h with ⟨a, u, hb, rfl⟩ | ⟨e, u, hb, rfl⟩ | ⟨u, hb, -⟩
    · rw [hb] at across
      exact hR.ended s u _ _ (hR.began s u across)
    · rw [hb] at across
      obtain ⟨r, bs, hentry⟩ := raiseEntry_frame (o.op s) e u
      rw [hentry]
      exact hR.ended s u r bs (hR.began s u across)
    · exact absurd hb (goesOn o u hc)

/-- The same, with a host that resets the core during no operation. -/
theorem exec_rel_undisturbed {R : State → State → Prop} (hR : EndRel R) {i : Instr} {s t : State}
    (hab : s.env.abandon = []) (h : exec i s = .next t)
    (body : ∀ o, Carries i o → R s.begin (o.body s.begin).state) : R s t :=
  exec_rel hR h (fun _ _ hc => (hc.ran s.begin).not_abandoned hab) body

/-! ## The mirror and the channel -/

theorem sameCache_endRel : EndRel SameCache := by
  refine ⟨?_, ?_, ?_, ?_⟩ <;> intros <;> simp_all [SameCache, State.begin, State.endOp]

theorem sameChannel_endRel : EndRel SameChannel := by
  refine ⟨?_, ?_, ?_, ?_⟩ <;> intros <;> simp_all [SameChannel, State.begin, State.endOp]

/-- Only the settings operations and `FLASH_ALL` write the mirror or `CACHED` (R21, R22). -/
theorem Carries.sameCache {i : Instr} {o : Operation} (h : Carries i o) (hi : i ∉ cacheInstrs) (t : State) :
    SameCache t (o.body t).state := by
  have kept := sameCache_rel
  cases h with
  | checksum row c => exact kept.refl t
  | msp row => exact kept.mspTransact _ _ _ t
  | send => exact kept.e4wSend _ _ _ t
  | readFlash => exact kept.readFlash _ _ t
  | writeFlash => exact kept.writeFlash _ _ t
  | selectChannel => exact kept.selectChannel _ t
  | exitSession => exact kept.exitSession t
  | reservedOp row => exact kept.refl t
  | status row => exact kept.refl t
  | ack b row => exact kept.e4wAck b t
  | deviceInit => exact kept.deviceInit _ t
  | deviceRead =>
    dsimp only
    split
    · exact kept.refl t
    · exact kept.of_bind (kept.oneChunk t) fun n u _ => kept.deviceRead _ n u
  | deviceWrite => exact kept.deviceWrite _ _ t
  | exit => exact kept.bootloaderExit t
  | requestFrame => exact kept.e4wPut _ _ _ t
  | replyFrame =>
    dsimp only
    split
    · exact kept.refl t
    · exact kept.e4wReply t
  | lengthByte => exact kept.of_bind (kept.oneChunk t) fun n u _ => kept.refl u
  | tableEntry => exact kept.lookup _ t
  | codec row => exact kept.throughCodec _ t
  | ownField row field v => exact absurd ((by decide : ∀ j ∈ ownFieldRows, j ∈ cacheInstrs) _ row) hi
  | _ => exact absurd (by decide) hi

/-- Only the session operations and `FLASH_ALL` write `CHAN_VALID` or `CHAN` (R24, R341). -/
theorem Carries.sameChannel {i : Instr} {o : Operation} (h : Carries i o) (hi : i ∉ channelInstrs) (t : State) :
    SameChannel t (o.body t).state := by
  have kept := sameChannel_rel
  cases h with
  | checksum row c => exact kept.refl t
  | msp row => exact kept.mspTransact _ _ _ t
  | send => exact kept.e4wSend _ _ _ t
  | readFlash => exact kept.readFlash _ _ t
  | writeFlash => exact kept.writeFlash _ _ t
  | fetch => exact kept.fetch t
  | getField => exact kept.getField _ t
  | setField =>
    exact kept.of_bind (kept.lookup _ t) fun e u _ =>
      kept.of_bind (by rw [ofExcept_state]; exact kept.refl u) fun v w _ => kept.setField e v w
  | reservedOp row => exact kept.refl t
  | status row => exact kept.refl t
  | ack b row => exact kept.e4wAck b t
  | deviceInit => exact kept.deviceInit _ t
  | deviceRead =>
    dsimp only
    split
    · exact kept.refl t
    · exact kept.of_bind (kept.oneChunk t) fun n u _ => kept.deviceRead _ n u
  | deviceWrite => exact kept.deviceWrite _ _ t
  | exit => exact kept.bootloaderExit t
  | requestFrame => exact kept.e4wPut _ _ _ t
  | replyFrame =>
    dsimp only
    split
    · exact kept.refl t
    · exact kept.e4wReply t
  | lengthByte => exact kept.of_bind (kept.oneChunk t) fun n u _ => kept.refl u
  | settingsBlock => exact kept.fetchIfAbsent t
  | tableEntry => exact kept.lookup _ t
  | codec row => exact kept.throughCodec _ t
  | ownField row field v => exact kept.setOwnField _ v t
  | _ => exact absurd (by decide) hi

/-- Settles O17: each frame is a relation that the procedures of the other instructions keep. -/
theorem cacheAndChannelFrame : Obligations.CacheAndChannelFrame := by
  intro i s t hab h
  exact ⟨fun hi => exec_rel_undisturbed sameCache_endRel hab h fun o hc => hc.sameCache hi _,
    fun hi => exec_rel_undisturbed sameChannel_endRel hab h fun o hc => hc.sameChannel hi _⟩

/-! ## A populated mirror -/

/-- A populated mirror stays populated, and the bytes no field reaches stay (R22, R111, R236). -/
def ReservedKept (s t : State) : Prop :=
  s.cached = true → t.cached = true ∧ ∀ a, 174 ≤ a → readByte t.mem a = readByte s.mem a

theorem ReservedKept.of_sameCache {s t : State} (h : SameCache s t) : ReservedKept s t :=
  fun hs => ⟨h.1.trans hs, fun a _ => h.2 a⟩

theorem reservedKept_endRel : EndRel ReservedKept :=
  ⟨fun _ hs => ⟨hs, fun _ _ => rfl⟩, fun _ _ hs => ⟨hs, fun _ _ => rfl⟩, fun _ _ h => h, fun _ _ _ _ h => h⟩

theorem reservedKept_rel : ChannelRel ReservedKept := by
  refine ⟨⟨⟨?_, ?_, ?_, ?_, ?_, ?_, ?_⟩, ?_, ?_⟩, ?_, ?_⟩
  case refine_2 =>
    intro a b c h g ha
    obtain ⟨hb, keptB⟩ := h ha
    obtain ⟨hc, keptC⟩ := g hb
    exact ⟨hc, fun x hx => (keptC x hx).trans (keptB x hx)⟩
  all_goals
    intros
    exact .of_sameCache ⟨rfl, fun _ => rfl⟩

/-- A populated mirror is not fetched again. -/
theorem fetchIfAbsent_reservedKept (s : State) : ReservedKept s (fetchIfAbsent s).state := by
  intro hs
  have nothing : fetchIfAbsent s = .ok () s := if_pos hs
  rw [nothing]
  exact ⟨hs, fun _ _ => rfl⟩

/-- An edit within the structured bytes leaves the reserved bytes alone (R111, R233). -/
theorem mutate_reservedKept {e : FieldEntry} {raw : List Byte} (h : e.offset + raw.length ≤ 174) (s : State) :
    ReservedKept s (mutate e raw s).state := by
  intro hs
  have wrote : mutate e raw s = .ok () (s.setMem (writeBytes s.mem e.offset raw)) := if_pos (by omega)
  rw [wrote]
  refine ⟨hs, fun a ha => ?_⟩
  show readByte (writeBytes s.mem e.offset raw) a = _
  rw [readByte_writeBytes, if_neg (by omega)]

theorem writeBack_reservedKept (s : State) : ReservedKept s (writeBack s).state :=
  reservedKept_rel.of_bind (reservedKept_rel.memRead _ _ s) fun _ t _ => reservedKept_rel.writeFlash _ _ t

theorem setField_reservedKept {i : Byte} {e : FieldEntry} (v : Value) {s : State} (he : s.cfg.params.find i = some e) :
    ReservedKept s (setField e v s).state := by
  have kept := reservedKept_rel
  have range := find_range he
  refine kept.of_bind (by rw [ofExcept_state]; exact kept.refl s) fun raw t hraw => ?_
  have width := encodeValue_length (ofExcept_ok hraw).1
  split
  · exact kept.refl t
  split
  · exact kept.refl t
  exact kept.of_bind (fetchIfAbsent_reservedKept t) fun _ u _ =>
    kept.of_bind (mutate_reservedKept (by omega) u) fun _ w _ => writeBack_reservedKept w

theorem setOwnField_reservedKept (i : Byte) (v : Value) (s : State) : ReservedKept s (setOwnField i v s).state := by
  refine reservedKept_rel.of_bind (reservedKept_rel.lookup i s) fun e t he => ?_
  obtain ⟨rfl, hfind⟩ := lookup_ok he
  exact setField_reservedKept v hfind

theorem resetVersion_reservedKept (s : State) : ReservedKept s (resetVersion s).state := by
  have kept := reservedKept_rel
  refine kept.of_bind (kept.lookup _ s) fun major t hmajor => ?_
  refine kept.of_bind (kept.lookup _ t) fun minor u hminor => ?_
  have r1 := find_range (lookup_ok hmajor).2
  have r2 := find_range (lookup_ok hminor).2
  exact kept.of_bind (mutate_reservedKept (by simp; omega) u) fun _ w _ =>
    kept.of_bind (mutate_reservedKept (by simp; omega) w) fun _ x _ => writeBack_reservedKept x

theorem seqStepDo_reservedKept (k : BitVec 4) {p : State → Ret Unit} (hp : ∀ t, ReservedKept t (p t).state) (s : State) :
    ReservedKept s (seqStepDo k p s).state := hp (s.setSeqStep k)

theorem flashSteps_reservedKept (fw : List Byte) (s : State) : ReservedKept s (flashSteps fw s).state := by
  have kept := reservedKept_rel
  exact
    kept.of_bind (seqStepDo_reservedKept 1 (fun t => kept.selectChannel _ t) s) fun _ s _ =>
    kept.of_bind (seqStepDo_reservedKept 2 (fun t => setOwnField_reservedKept _ _ t) s) fun _ s _ =>
    kept.of_bind (seqStepDo_reservedKept 3 (fun t => setOwnField_reservedKept _ _ t) s) fun _ s _ =>
    kept.of_bind (seqStepDo_reservedKept 4 resetVersion_reservedKept s) fun _ s _ =>
    kept.of_bind (seqStepDo_reservedKept 5 (fun t => kept.writeFlash _ _ t) s) fun _ s _ =>
    kept.of_bind (seqStepDo_reservedKept 6 (fun t => setOwnField_reservedKept _ _ t) s) fun _ s _ =>
    kept.of_bind (seqStepDo_reservedKept 7 (fun t => setOwnField_reservedKept _ _ t) s) fun _ s _ =>
    seqStepDo_reservedKept 8 (fun t => kept.exitSession t) s

theorem flashAll_reservedKept (s : State) : ReservedKept s (flashAll s).state := by
  have kept := reservedKept_rel
  unfold flashAll fwBytes
  split
  · exact kept.refl s
  split
  · exact kept.refl s
  split
  · exact flashSteps_reservedKept _ s
  · exact kept.refl s

/-- No operation but `FETCH` writes the reserved bytes of a populated mirror. -/
theorem Carries.reservedKept {i : Instr} {o : Operation} (h : Carries i o) (hi : i ≠ .fetch) (t : State) :
    ReservedKept t (o.body t).state := by
  by_cases hcache : i ∈ cacheInstrs
  · have kept := reservedKept_rel
    cases h with
    | fetch => exact absurd rfl hi
    | getField =>
      exact kept.of_bind (kept.lookup _ t) fun e u _ => kept.of_bind (fetchIfAbsent_reservedKept u) fun _ w _ =>
        kept.of_bind (kept.memRead _ _ w) fun _ x _ => kept.refl x
    | setField =>
      refine kept.of_bind (kept.lookup _ t) fun e u he => ?_
      obtain ⟨rfl, hfind⟩ := lookup_ok he
      refine kept.of_bind (by rw [ofExcept_state]; exact kept.refl u) fun v w hv => ?_
      obtain ⟨-, rfl⟩ := ofExcept_ok hv
      exact setField_reservedKept v hfind
    | flashAll => exact flashAll_reservedKept t
    | settingsBlock => exact fetchIfAbsent_reservedKept t
    | ownField row field v => exact setOwnField_reservedKept _ v t
    | checksum row c => exact kept.refl t
    | msp row => exact kept.mspTransact _ _ _ t
    | reservedOp row => exact kept.refl t
    | status row => exact kept.refl t
    | ack b row => exact kept.e4wAck b t
    | codec row => exact kept.throughCodec _ t
    | _ => exact absurd hcache (by decide)
  · exact .of_sameCache (h.sameCache hcache t)

/-- Settles O18: `CACHED` is never cleared along a run, and only `FETCH` writes beyond the fields of a populated mirror. -/
theorem reservedBytesPreserved : Obligations.ReservedBytesPreserved := by
  intro i s t hs hab h
  have cached : EndRel (fun s t => s.cached = true → t.cached = true) :=
    ⟨fun _ h => h, fun _ _ h => h, fun _ _ h => h, fun _ _ _ _ h => h⟩
  refine ⟨exec_rel_undisturbed cached hab h (fun o hc => cached_rel.of_run (hc.ran _).run) hs, fun hi => ?_⟩
  exact (exec_rel_undisturbed reservedKept_endRel hab h (fun o hc => hc.reservedKept hi _) hs).2

/-! ## A stream with the link down (R204, R298) -/

section
variable {s : State} (down : s.linkUp = false)
include down

theorem e4wPut_down (cmd : Byte) (addr : Half) (out : List Byte) : e4wPut cmd addr out s = raise .notConnected s :=
  if_pos down

theorem e4wSend_down (cmd : Byte) (addr : Half) (out : List Byte) : e4wSend cmd addr out s = raise .notConnected s := by
  rw [e4wSend, e4wPut_down down, raise_bind]

theorem readFlash_down (addr len : Nat) : readFlash addr len s = raise .notConnected s := by
  rw [readFlash, admitTransfer, if_pos down, raise_bind]

theorem writeFlash_down (addr : Nat) (buf : List Byte) : writeFlash addr buf s = raise .notConnected s := by
  rw [writeFlash, admitTransfer, if_pos down, raise_bind]

theorem mspTransact_down (cmd : Half) (out : List Byte) (cap : Nat) :
    mspTransact cmd out cap s = raise .notConnected s := if_pos down

theorem fetch_down : fetch s = raise .notConnected s := by rw [fetch, readFlash_down down, raise_bind]

theorem flashAll_down : flashAll s = raise .notConnected s := if_pos down

/-- `CHAN_VALID` is cleared before the first test (R200). -/
theorem selectChannel_down (ch : Byte) : selectChannel ch s = raise .notConnected s.clearChan := by
  rw [selectChannel, deviceInit, e4wSend_down (s := s.clearChan) down, raise_bind]

/-- `CHAN_VALID` is cleared whatever follows (R202). -/
theorem exitSession_down : exitSession s = raise .notConnected s.clearChan := by
  rw [exitSession, bootloaderExit, e4wSend_down (s := s.clearChan) down, raise_bind]

end

/-- The procedure with outcome `r`, run from `s`, made no stream call. -/
structure Silent {α : Type} (s : State) (r : Ret α) : Prop where
  noStream : NoStream s r.state
  notAbandoned : ∀ t, r ≠ .stop .abandoned t

namespace Silent

variable {α β : Type}

theorem ok {s t : State} (h : NoStream s t) (a : α) : Silent s (Ret.ok a t) := ⟨h, fun _ => by simp⟩
theorem raise {s t : State} (h : NoStream s t) (e : Status) : Silent s (Machine.raise e t : Ret α) :=
  ⟨h, fun _ => by simp [Machine.raise]⟩

theorem ofExcept (x : Except Status α) (s : State) : Silent s (Machine.ofExcept x s) := by
  cases x with
  | ok a => exact ok ⟨rfl, rfl⟩ a
  | error e => exact raise ⟨rfl, rfl⟩ e

theorem bind {s : State} {r : Ret α} {f : α → State → Ret β} (h1 : Silent s r)
    (h2 : ∀ a t, r = .ok a t → Silent t (f a t)) : Silent s (r.bind f) := by
  refine ⟨Ret.bind_rel (fun _ _ _ h g => ⟨g.1.trans h.1, g.2.trans h.2⟩) h1.noStream fun a t ha => (h2 a t ha).noStream,
    fun t h => ?_⟩
  rcases Ret.bind_eq_stop.1 h with h | ⟨a, u, ha, h⟩
  · exact h1.notAbandoned t h
  · exact (h2 a u ha).notAbandoned t h

end Silent

theorem lookup_silent (i : Byte) (s : State) : Silent s (lookup i s) := by
  unfold lookup
  split
  · exact .raise ⟨rfl, rfl⟩ _
  · exact .ok ⟨rfl, rfl⟩ _

theorem memRead_silent {c : Config} {i : Byte} {e : FieldEntry} (he : c.params.find i = some e) (s : State) :
    Silent s (memRead e.offset e.width s) := by
  have fits := (find_range he).2
  have inside : memRead e.offset e.width s = .ok (readBytes s.mem e.offset e.width) s := if_pos (by omega)
  rw [inside]
  exact .ok ⟨rfl, rfl⟩ _

theorem throughCodec_silent (tag : CodecTag) (s : State) : Silent s (throughCodec tag s) := by
  refine (lookup_silent _ s).bind fun e t _ => ?_
  split
  · exact .raise ⟨rfl, rfl⟩ _
  · exact (Silent.ofExcept _ t).bind fun v u _ => (Silent.ofExcept _ u).bind fun _ w _ => .ok ⟨rfl, rfl⟩ _

theorem oneChunk_silent (s : State) : Silent s (oneChunk s) := by
  unfold oneChunk
  split
  · exact .raise ⟨rfl, rfl⟩ _
  split
  · exact .raise ⟨rfl, rfl⟩ _
  · exact .ok ⟨rfl, rfl⟩ _

theorem e4wAck_silent (b : Byte) (s : State) : Silent s (e4wAck b s) := by
  have same : NoStream s (s.setAck b) := ⟨rfl, rfl⟩
  unfold e4wAck
  split
  · exact .ok same _
  · exact .raise same _

theorem fetchIfAbsent_silent {s : State} (down : s.linkUp = false) : Silent s (fetchIfAbsent s) := by
  unfold fetchIfAbsent
  split
  · exact .ok ⟨rfl, rfl⟩ _
  · rw [fetch_down down]; exact .raise ⟨rfl, rfl⟩ _

theorem getField_silent {s : State} (down : s.linkUp = false) (i : Byte) : Silent s (getField i s) := by
  refine (lookup_silent i s).bind fun e t he => ?_
  obtain ⟨rfl, hfind⟩ := lookup_ok he
  exact (fetchIfAbsent_silent down).bind fun _ u _ => (memRead_silent hfind u).bind fun _ w _ => .ok ⟨rfl, rfl⟩ _

theorem setField_silent {s : State} (down : s.linkUp = false) (e : FieldEntry) (v : Value) : Silent s (setField e v s) := by
  refine (Silent.ofExcept _ s).bind fun raw t ht => ?_
  obtain ⟨-, rfl⟩ := ofExcept_ok ht
  rw [if_pos down]
  exact .raise ⟨rfl, rfl⟩ _

theorem setOwnField_silent {s : State} (down : s.linkUp = false) (i : Byte) (v : Value) : Silent s (setOwnField i v s) := by
  refine (lookup_silent i s).bind fun e t he => ?_
  obtain ⟨rfl, -⟩ := lookup_ok he
  exact setField_silent down e v

/-- With the link down no operation makes a stream call (R23, R204). -/
theorem Carries.silent {i : Instr} {o : Operation} (h : Carries i o) {t : State} (down : t.linkUp = false) :
    Silent t (o.body t) := by
  have same : NoStream t t := ⟨rfl, rfl⟩
  have cleared : NoStream t t.clearChan := ⟨rfl, rfl⟩
  cases h with dsimp only
  | checksum row c => exact .ok same _
  | msp row => rw [mspTransact_down down]; exact .raise same _
  | send => rw [e4wSend_down down]; exact .raise same _
  | readFlash => rw [readFlash_down down]; exact .raise same _
  | writeFlash => rw [writeFlash_down down]; exact .raise same _
  | fetch => rw [fetch_down down]; exact .raise same _
  | getField => exact getField_silent down _
  | setField =>
    refine (lookup_silent _ t).bind fun e u he => ?_
    obtain ⟨rfl, -⟩ := lookup_ok he
    refine (Silent.ofExcept _ u).bind fun v w hv => ?_
    obtain ⟨-, rfl⟩ := ofExcept_ok hv
    exact setField_silent down e v
  | flashAll => rw [flashAll_down down]; exact .raise same _
  | selectChannel => rw [selectChannel_down down]; exact .raise cleared _
  | exitSession => rw [exitSession_down down]; exact .raise cleared _
  | reservedOp row => exact .raise same _
  | status row => exact .raise same _
  | ack b row => exact e4wAck_silent b t
  | deviceInit => rw [Machine.deviceInit, e4wSend_down down]; exact .raise same _
  | deviceRead => rw [if_pos down]; exact .raise same _
  | deviceWrite => rw [Machine.deviceWrite, e4wSend_down down]; exact .raise same _
  | exit => rw [bootloaderExit, e4wSend_down down]; exact .raise same _
  | requestFrame => rw [e4wPut_down down]; exact .raise same _
  | replyFrame => rw [if_pos down]; exact .raise same _
  | lengthByte => exact (oneChunk_silent t).bind fun n u _ => .ok ⟨rfl, rfl⟩ _
  | settingsBlock => exact fetchIfAbsent_silent down
  | tableEntry => exact lookup_silent _ t
  | codec row => exact throughCodec_silent _ t
  | ownField row field v => exact setOwnField_silent down _ v

theorem noStream_endRel : EndRel NoStream := by
  refine ⟨?_, ?_, ?_, ?_⟩ <;> intros <;> simp_all [NoStream, State.begin, State.endOp, State.setVkind]

/-- Before the first stream call of an operation there is nothing to report: its error entry writes the status alone (R295, R300). -/
theorem raiseEntry_begun {s : State} (hseq : s.seqStep = 0) (hack : s.res.ack = 0) (hxfer : s.res.xfer = 0)
    (hin : s.inbuf = []) (op : BitVec 4) (e : Status) :
    raiseEntry op e s = s.endOp { status := statusCode e } [] := by
  have progress : s.progress op = {} := by simp [State.progress, hack, hxfer, State.flashXfer, hseq]
  have none : s.handedOver op = [] := by simp [State.handedOver, hin]
  rw [raiseEntry_plain (by simp [hseq]), progress, none]

/-- An operation whose first lines raise ends with the status alone. -/
theorem runOp_refused {α : Type} {op : BitVec 4} {body : State → Ret α} {results : α → State → Results × List Byte}
    {s : State} {e : Status} (h : body s.begin = raise e s.begin) :
    runOp op body results s = .next (s.endOp { status := statusCode e } []) := by
  rw [runOp_raise h]
  exact congrArg _ (raiseEntry_begun rfl rfl rfl rfl op e)

/-- The same for the session operations, which clear `CHAN_VALID` first. -/
theorem runOp_refused_cleared {α : Type} {op : BitVec 4} {body : State → Ret α}
    {results : α → State → Results × List Byte} {s : State} {e : Status}
    (h : body s.begin = raise e s.begin.clearChan) :
    runOp op body results s = .next ({ s with chanValid := false }.endOp { status := statusCode e } []) := by
  rw [runOp_raise h]
  exact congrArg _ (raiseEntry_begun (s := s.begin.clearChan) rfl rfl rfl rfl op e)

/-- The rows other than the session operations that need the stream at their first test (R204). -/
theorem exec_down {i : Instr} {s : State} (down : s.linkUp = false)
    (hi : i ∈ [Instr.mspTransact, .e4wSend, .readFlash, .writeFlash, .fetch, .flashAll, .e4wDeviceInit, .e4wDeviceRead,
      .e4wDeviceWrite, .e4wExit, .mspFrame, .e4wRequestFrame, .e4wReplyFrame]) :
    exec i s = .next (s.endOp { status := statusCode .notConnected } []) := by
  have begun : s.begin.linkUp = false := down
  simp only [List.mem_cons, List.not_mem_nil, or_false] at hi
  rcases hi with rfl | rfl | rfl | rfl | rfl | rfl | rfl | rfl | rfl | rfl | rfl | rfl | rfl
  · dsimp only [exec, execMspTransact]; refine runOp_refused ?_; exact mspTransact_down begun _ _ _
  · dsimp only [exec, execE4wSend]; refine runOp_refused ?_; exact e4wSend_down begun _ _ _
  · dsimp only [exec, execReadFlash]; refine runOp_refused ?_; exact readFlash_down begun _ _
  · dsimp only [exec, execWriteFlash]; refine runOp_refused ?_; exact writeFlash_down begun _ _
  · dsimp only [exec, execFetch]; refine runOp_refused ?_; exact fetch_down begun
  · dsimp only [exec, execFlashAll]; refine runOp_refused ?_; exact flashAll_down begun
  · dsimp only [exec, execE4wDeviceInit]; refine runOp_refused ?_; exact e4wSend_down begun _ _ _
  · dsimp only [exec, execE4wDeviceRead]; refine runOp_refused ?_; exact if_pos begun
  · dsimp only [exec, execE4wDeviceWrite]; refine runOp_refused ?_; exact e4wSend_down begun _ _ _
  · dsimp only [exec, execE4wExit]; refine runOp_refused ?_; exact e4wSend_down begun _ _ _
  · dsimp only [exec, execMspFrame]; refine runOp_refused ?_; exact mspTransact_down begun _ _ _
  · dsimp only [exec, execE4wRequestFrame]; refine runOp_refused ?_; exact e4wPut_down begun _ _ _
  · dsimp only [exec, execE4wReplyFrame]; refine runOp_refused ?_; exact if_pos begun

theorem execSelectChannel_down {s : State} (down : s.linkUp = false) :
    exec .selectChannel s = .next ({ s with chanValid := false }.endOp { status := statusCode .notConnected } []) := by
  dsimp only [exec, execSelectChannel]
  refine runOp_refused_cleared ?_
  exact selectChannel_down (s := s.begin) down _

theorem execExitSession_down {s : State} (down : s.linkUp = false) :
    exec .exitSession s = .next ({ s with chanValid := false }.endOp { status := statusCode .notConnected } []) := by
  dsimp only [exec, execExitSession]
  refine runOp_refused_cleared ?_
  exact exitSession_down (s := s.begin) down

/-- Settles O10: with the link down every operation is silent, and those that test the link first raise there. -/
theorem linkDown : Obligations.LinkDown := by
  constructor
  · intro i s t down h
    have silent : ∀ o, Carries i o → Silent s.begin (o.body s.begin) := fun o hc => hc.silent down
    exact exec_rel noStream_endRel h (fun o u hc => (silent o hc).notAbandoned u) fun o hc => (silent o hc).noStream
  · intro i s down hi
    by_cases session : i = .selectChannel ∨ i = .exitSession
    · rcases session with rfl | rfl
      · simpa [statusCode] using execSelectChannel_down down
      · simpa [statusCode] using execExitSession_down down
    · have others := not_or.1 session
      have keeps : (s.chanValid && decide (i ≠ .selectChannel ∧ i ≠ .exitSession)) = s.chanValid := by simp [others]
      rw [keeps]
      refine exec_down down ?_
      simp only [List.mem_cons] at hi ⊢
      tauto

end Sys2Proof.Machine
end

section
/-! SUPPORT. A reset during an operation (R332). Every procedure run twice, once with the host's coming resets and once without, goes the same way up to the stream call at which the reset lands (`Tracks`); an abandoned operation's events are the first events of the one left to run. -/

namespace Sys2Proof.Machine

open Ret

/-! ## Two runs of a procedure -/

/-- The coming resets `l` let `n` stream calls pass, and `l'` are those to come after them (R332). -/
def Passes : List Nat → Nat → List Nat → Prop
  | [], _, l' => l' = []
  | k :: ks, n, l' => n ≤ k ∧ l' = (k - n) :: ks

theorem Passes.zero (l : List Nat) : Passes l 0 l := by
  cases l with
  | nil => rfl
  | cons k ks => exact ⟨Nat.zero_le k, rfl⟩

theorem Passes.add {a b c : List Nat} {m n : Nat} (h : Passes a m b) (g : Passes b n c) : Passes a (m + n) c := by
  cases a with
  | nil =>
    obtain rfl : b = [] := h
    exact g
  | cons k ks =>
    obtain ⟨hm, rfl⟩ := h
    obtain ⟨hn, rfl⟩ := g
    exact ⟨by omega, by rw [Nat.sub_sub]⟩

/-- A reset due `n` calls after `m` calls is due `m + n` calls from here. -/
theorem Passes.due {a ks : List Nat} {m n : Nat} (h : Passes a m (n :: ks)) : a = (m + n) :: ks := by
  cases a with
  | nil => cases h
  | cons k js =>
    obtain ⟨hm, heq⟩ := h
    cases heq
    rw [Nat.add_sub_cancel' hm]

/-- One stream call of a host whose reset is not due. -/
theorem Passes.call {e : Env} (h : e.abandonsNow = false) : Passes e.abandon 1 (countDown e.abandon) := by
  unfold Env.abandonsNow at h
  match he : e.abandon with
  | [] => rfl
  | 0 :: ks => rw [he] at h; cases h
  | (k + 1) :: ks => exact ⟨by omega, rfl⟩

/-- A reset that is due heads the list of coming resets. -/
theorem Env.abandonsNow_due {e : Env} (h : e.abandonsNow = true) : ∃ ks, e.abandon = 0 :: ks := by
  unfold Env.abandonsNow at h
  match he : e.abandon with
  | [] => rw [he] at h; cases h
  | 0 :: ks => exact ⟨ks, rfl⟩
  | (k + 1) :: ks => rw [he] at h; cases h

/-- The outcome with the coming resets taken away. -/
def Ret.undisturbed {α : Type} : Ret α → Ret α
  | .ok a s => .ok a s.undisturbed
  | .stop e s => .stop e s.undisturbed

@[simp] theorem Ret.undisturbed_events {α : Type} (r : Ret α) : r.undisturbed.state.events = r.state.events := by
  cases r <;> rfl

/-- `r` is the outcome of a procedure run from `s`, `u` that of the same procedure with a host that resets nothing. Either no reset was due, and `u` is `r`; or `r` was abandoned at a stream call, and `u` made that call. -/
inductive Tracks {α : Type} (s : State) (r u : Ret α) : Prop where
  | through (es : List StreamEvent) (events : r.state.events = s.events ++ es)
      (passes : Passes s.env.abandon es.length r.state.env.abandon) (goesOn : ∀ t, r ≠ .stop .abandoned t)
      (same : u = r.undisturbed)
  | cut (t : State) (es more : List StreamEvent) (ks : List Nat) (stops : r = .stop .abandoned t)
      (due : s.env.abandon = es.length :: ks) (left : t.env.abandon = 0 :: ks) (events : t.events = s.events ++ es)
      (further : u.state.events = s.events ++ es ++ more) (some : more ≠ [])

namespace Tracks

variable {α β : Type} {s t : State}

theorem ok (a : α) (s : State) : Tracks s (Ret.ok a s) (Ret.ok a s.undisturbed) :=
  .through [] (by simp) (Passes.zero _) (fun _ => by simp) rfl

theorem raise (e : Status) (s : State) :
    Tracks s (Machine.raise e s : Ret α) (Machine.raise e s.undisturbed) :=
  .through [] (by simp) (Passes.zero _) (fun _ => by simp [Machine.raise]) rfl

theorem broken (f : Fault) (s : State) :
    Tracks s (Ret.stop (.broken f) s : Ret α) (Ret.stop (.broken f) s.undisturbed) :=
  .through [] (by simp) (Passes.zero _) (fun _ => by simp) rfl

theorem ofExcept (x : Except Status α) (s : State) :
    Tracks s (Machine.ofExcept x s) (Machine.ofExcept x s.undisturbed) := by
  cases x with
  | ok a => exact ok a s
  | error e => exact raise e s

/-- An update of anything but the events and the environment before the procedure. -/
theorem after {r u : Ret α} (h : Tracks t r u) (he : t.events = s.events) (ha : t.env = s.env) : Tracks s r u := by
  cases h with
  | through es events passes goesOn same => exact .through es (he ▸ events) (ha ▸ passes) goesOn same
  | cut t es more ks stops due left events further some =>
    exact .cut t es more ks stops (ha ▸ due) left (he ▸ events) (he ▸ further) some

end Tracks

/-- A procedure tracked from every state. -/
def Tracked {α : Type} (p : State → Ret α) : Prop := ∀ s, Tracks s (p s) (p s.undisturbed)

/-- A tracked procedure only adds events. -/
theorem Tracked.only_adds {α : Type} {p : State → Ret α} (h : Tracked p) (s : State) :
    ∃ es, (p s).state.events = s.events ++ es := by
  cases h s with
  | through es events passes goesOn same => exact ⟨es, events⟩
  | cut t es more ks stops due left events further some => exact ⟨es, by rw [stops]; exact events⟩

/-- The two runs of a sequence go on as the two runs of its second part, or part at the first. -/
theorem Tracks.bind {α β : Type} {s : State} {r u : Ret α} {f : α → State → Ret β} (h1 : Tracks s r u)
    (h2 : ∀ a, Tracked (f a)) : Tracks s (r.bind f) (u.bind f) := by
  cases h1 with
  | through es events passes goesOn same =>
    subst same
    cases r with
    | stop e t => exact .through es events passes (fun _ h => goesOn _ (by cases h; rfl)) rfl
    | ok a t =>
      have events : t.events = s.events ++ es := events
      have passes : Passes s.env.abandon es.length t.env.abandon := passes
      cases h2 a t with
      | through es' events' passes' goesOn' same' =>
        refine .through (es ++ es') ?_ ?_ goesOn' same'
        · rw [Ret.bind_ok, events', events, List.append_assoc]
        · rw [List.length_append]; exact passes.add passes'
      | cut v es' more ks stops due left events' further some =>
        refine .cut v (es ++ es') more ks stops ?_ left ?_ ?_ some
        · rw [due] at passes
          rw [List.length_append]
          exact passes.due
        · rw [events', events, List.append_assoc]
        · show (f a t.undisturbed).state.events = _
          rw [further, events, List.append_assoc s.events]
  | cut v es more ks stops due left events further some =>
    subst stops
    cases u with
    | stop e w => exact .cut v es more ks rfl due left events further some
    | ok a w =>
      obtain ⟨es', hes⟩ := (h2 a).only_adds w
      have further : w.events = s.events ++ es ++ more := further
      refine .cut v es (more ++ es') ks rfl due left events ?_ (by simp [some])
      rw [Ret.bind_ok, hes, further, List.append_assoc]

/-! ### The stream port and the transports -/

theorem streamWrite_tracked (bs : List Byte) : Tracked (streamWrite bs) := by
  intro s
  have free : streamWrite bs s.undisturbed = .ok (min s.nextAccept bs.length)
      ((s.undisturbed.setEnv s.undisturbed.env.afterWrite).addEvent
        (.write s.seqStep bs (min s.nextAccept bs.length))) := rfl
  rw [free]
  cases now : s.env.abandonsNow with
  | true =>
    obtain ⟨ks, hks⟩ := Env.abandonsNow_due now
    have stops : streamWrite bs s = .stop .abandoned s := if_pos now
    exact .cut s [] _ ks stops hks hks (by simp) (by rw [List.append_nil]; rfl) (List.cons_ne_nil _ [])
  | false =>
    have goes : streamWrite bs s = .ok (min s.nextAccept bs.length)
        ((s.setEnv s.env.afterWrite).addEvent (.write s.seqStep bs (min s.nextAccept bs.length))) :=
      if_neg (by simp [now])
    rw [goes]
    exact .through [_] rfl (Passes.call now) (fun _ => by simp) rfl

theorem streamRead_tracked (max : Nat) : Tracked (streamRead max) := by
  intro s
  have free : streamRead max s.undisturbed = .ok (s.nextLine.take max)
      ((s.undisturbed.setEnv (s.undisturbed.env.afterRead (s.nextLine.drop max))).addEvent
        (.read s.seqStep max s.timeout (s.nextLine.take max))) := rfl
  rw [free]
  cases now : s.env.abandonsNow with
  | true =>
    obtain ⟨ks, hks⟩ := Env.abandonsNow_due now
    have stops : streamRead max s = .stop .abandoned s := if_pos now
    exact .cut s [] _ ks stops hks hks (by simp) (by rw [List.append_nil]; rfl) (List.cons_ne_nil _ [])
  | false =>
    have goes : streamRead max s = .ok (s.nextLine.take max)
        ((s.setEnv (s.env.afterRead (s.nextLine.drop max))).addEvent
          (.read s.seqStep max s.timeout (s.nextLine.take max))) := if_neg (by simp [now])
    rw [goes]
    exact .through [_] rfl (Passes.call now) (fun _ => by simp) rfl

theorem e4wAck_tracked (b : Byte) : Tracked (e4wAck b) := by
  intro s
  unfold e4wAck
  split
  · exact (Tracks.ok () (s.setAck b)).after rfl rfl
  · exact (Tracks.raise _ (s.setAck b)).after rfl rfl

theorem e4wCheck_tracked (h b : List Byte) : Tracked (e4wCheck h b) := by
  intro s
  unfold e4wCheck
  split
  · exact .raise _ s
  · exact (e4wAck_tracked _ s).bind fun _ t => .ok _ t

theorem e4wReply_tracked : Tracked e4wReply := by
  intro s
  refine (streamRead_tracked 5 s).bind fun h t => ?_
  split
  · exact (Tracks.raise _ (t.setRx h)).after rfl rfl
  · refine Tracks.after (t := t.setRx h) ((streamRead_tracked _ _).bind fun b u => ?_) rfl rfl
    split
    · exact (Tracks.raise _ (u.setRx (h ++ b))).after rfl rfl
    · exact (e4wCheck_tracked h b (u.setRx (h ++ b))).after rfl rfl

theorem e4wPut_tracked (cmd : Byte) (addr : Half) (out : List Byte) : Tracked (e4wPut cmd addr out) := by
  intro s
  by_cases down : s.linkUp = false
  · rw [e4wPut_down down, e4wPut_down (s := s.undisturbed) down]
    exact .raise _ s
  have up : ¬s.undisturbed.linkUp = false := down
  unfold e4wPut
  rw [if_neg down, if_neg up]
  split
  · exact .raise _ s
  split
  · exact .raise _ s
  refine Tracks.after (t := s.setTx (e4wRequest s.cfg.params cmd addr out)) ?_ rfl rfl
  refine (streamWrite_tracked _ _).bind fun w t => ?_
  show Tracks t (if w < (e4wRequest t.cfg.params cmd addr out).length then _ else _)
    (if w < (e4wRequest t.cfg.params cmd addr out).length then _ else _)
  split
  · exact .raise _ t
  · exact .ok () t

theorem e4wSend_tracked (cmd : Byte) (addr : Half) (out : List Byte) : Tracked (e4wSend cmd addr out) :=
  fun s => (e4wPut_tracked cmd addr out s).bind fun _ => e4wReply_tracked

theorem deviceInit_tracked (ch : Byte) : Tracked (deviceInit ch) := fun s => e4wSend_tracked _ _ _ s
theorem deviceWrite_tracked (addr : Half) (bs : List Byte) : Tracked (deviceWrite addr bs) :=
  fun s => e4wSend_tracked _ _ _ s
theorem bootloaderExit_tracked : Tracked bootloaderExit := fun s => e4wSend_tracked _ _ _ s

theorem deviceRead_tracked (addr : Half) (n : Nat) : Tracked (deviceRead addr n) := by
  intro s
  refine (e4wSend_tracked _ _ _ s).bind fun p t => ?_
  split
  · exact .raise _ t
  · exact .ok _ t

/-- The tests before a transfer do not look at the host's coming resets. -/
theorem admitTransfer_tracked (addr len : Nat) : Tracked (admitTransfer addr len) := by
  intro s
  by_cases down : s.linkUp = false
  · rw [admitTransfer, if_pos down, admitTransfer, if_pos (show s.undisturbed.linkUp = false from down)]
    exact .raise _ s
  by_cases noChannel : s.chanValid = false
  · rw [admitTransfer, if_neg down, if_pos noChannel, admitTransfer,
      if_neg (show ¬s.undisturbed.linkUp = false from down),
      if_pos (show s.undisturbed.chanValid = false from noChannel)]
    exact .raise _ s
  rw [admitTransfer, if_neg down, if_neg noChannel, admitTransfer,
    if_neg (show ¬s.undisturbed.linkUp = false from down),
    if_neg (show ¬s.undisturbed.chanValid = false from noChannel)]
  split
  · exact .raise _ s
  · exact .ok _ s

theorem readChunks_tracked (addr len k i : Nat) : Tracked (readChunks addr len k i) := by
  induction k generalizing i with
  | zero => exact fun s => .ok _ s
  | succ k ih =>
    exact fun s => (deviceRead_tracked _ _ s).bind fun p t => (ih (i + 1) (t.tookChunk p)).after rfl rfl

theorem readFlash_tracked (addr len : Nat) : Tracked (readFlash addr len) := fun s =>
  (admitTransfer_tracked _ _ s).bind fun _ t =>
    (readChunks_tracked addr len _ 0 ((t.setXfer 0).setInbuf [])).after rfl rfl

theorem writeChunks_tracked (addr : Nat) (buf : List Byte) (k i : Nat) : Tracked (writeChunks addr buf k i) := by
  induction k generalizing i with
  | zero => exact fun s => .ok _ s
  | succ k ih =>
    exact fun s => (deviceWrite_tracked _ _ s).bind fun _ t =>
      (ih (i + 1) (t.setXfer (t.res.xfer + BitVec.ofNat 32 (chunkLen buf.length i)))).after rfl rfl

theorem writeFlash_tracked (addr : Nat) (buf : List Byte) : Tracked (writeFlash addr buf) := fun s =>
  (admitTransfer_tracked _ _ s).bind fun _ t => (writeChunks_tracked addr buf _ 0 (t.setXfer 0)).after rfl rfl

theorem selectChannel_tracked (ch : Byte) : Tracked (selectChannel ch) := fun s =>
  Tracks.after (t := s.clearChan)
    ((deviceInit_tracked ch _).bind fun _ t => (Tracks.ok () (t.setChan ch)).after rfl rfl) rfl rfl

theorem exitSession_tracked : Tracked exitSession := fun s =>
  Tracks.after (t := s.clearChan) ((bootloaderExit_tracked _).bind fun _ t => .ok () t) rfl rfl

theorem mspTransact_tracked (cmd : Half) (out : List Byte) (cap : Nat) : Tracked (mspTransact cmd out cap) := by
  intro s
  by_cases down : s.linkUp = false
  · rw [mspTransact_down down, mspTransact_down (s := s.undisturbed) down]
    exact .raise _ s
  have up : ¬s.undisturbed.linkUp = false := down
  unfold mspTransact
  rw [if_neg down, if_neg up]
  show Tracks s (if mspTooLong s.cfg.params out = true then _ else _)
    (if mspTooLong s.cfg.params out = true then _ else _)
  split
  · exact .raise _ s
  refine Tracks.after (t := s.setTx (mspRequest s.cfg.params cmd out)) ?_ rfl rfl
  refine (streamWrite_tracked _ _).bind fun w t => ?_
  show Tracks t (if w < (mspRequest t.cfg.params cmd out).length then _ else _)
    (if w < (mspRequest t.cfg.params cmd out).length then _ else _)
  split
  · exact .raise _ t
  · exact (streamRead_tracked _ t).bind fun rx u => (Tracks.ofExcept _ (u.setRx rx)).after rfl rfl

/-- The length of a chunk is an operand of the host. -/
theorem oneChunk_tracked : Tracked oneChunk := by
  intro s
  unfold oneChunk
  show Tracks s (if s.opnd.len.toNat = 0 then _ else if 256 < s.opnd.len.toNat then _ else _)
    (if s.opnd.len.toNat = 0 then _ else if 256 < s.opnd.len.toNat then _ else _)
  split
  · exact .raise _ s
  split
  · exact .raise _ s
  · exact .ok _ s

/-! ### The settings cache and the sequencer -/

theorem memRead_tracked (a n : Nat) : Tracked (memRead a n) := by
  intro s
  unfold memRead
  split
  · exact .ok _ s
  · exact .broken _ s

theorem memWrite_tracked (a : Nat) (bs : List Byte) : Tracked (memWrite a bs) := by
  intro s
  unfold memWrite
  split
  · exact (Tracks.ok () (s.setMem (writeBytes s.mem a bs))).after rfl rfl
  · exact .broken _ s

theorem lookup_tracked (i : Byte) : Tracked (lookup i) := by
  intro s
  cases hi : s.cfg.params.find i with
  | none =>
    have missing : ∀ t : State, t.cfg = s.cfg → lookup i t = raise .unknownField t := by
      intro t ht
      simp only [lookup, ht, hi]
    rw [missing s rfl, missing s.undisturbed rfl]
    exact .raise _ s
  | some e =>
    rw [lookup_of hi, lookup_of (s := s.undisturbed) hi]
    exact .ok e s

theorem fetch_tracked : Tracked fetch := fun s =>
  (readFlash_tracked _ _ s).bind fun _ t =>
    Tracks.bind (memWrite_tracked 0 t.inbuf t) fun _ u => (Tracks.ok () u.setCached).after rfl rfl

theorem fetchIfAbsent_tracked : Tracked fetchIfAbsent := by
  intro s
  unfold fetchIfAbsent
  show Tracks s (if s.cached = true then _ else _) (if s.cached = true then _ else _)
  split
  · exact .ok () s
  · exact fetch_tracked s

theorem getField_tracked (i : Byte) : Tracked (getField i) := fun s =>
  (lookup_tracked i s).bind fun _ t => (fetchIfAbsent_tracked t).bind fun _ u =>
    (memRead_tracked _ _ u).bind fun _ v => .ok _ v

theorem writeBack_tracked : Tracked writeBack := fun s =>
  (memRead_tracked _ _ s).bind fun page t => writeFlash_tracked _ page t

theorem setField_tracked (e : FieldEntry) (v : Value) : Tracked (setField e v) := by
  refine fun s => (Tracks.ofExcept _ s).bind fun raw t => ?_
  show Tracks t (if t.linkUp = false then _ else if t.chanValid = false then _ else _)
    (if t.linkUp = false then _ else if t.chanValid = false then _ else _)
  split
  · exact .raise _ t
  split
  · exact .raise _ t
  exact (fetchIfAbsent_tracked t).bind fun _ u => (memWrite_tracked _ _ u).bind fun _ => writeBack_tracked

theorem setOwnField_tracked (i : Byte) (v : Value) : Tracked (setOwnField i v) := fun s =>
  (lookup_tracked i s).bind fun e => setField_tracked e v

theorem throughCodec_tracked (tag : CodecTag) : Tracked (throughCodec tag) := by
  refine fun s => (lookup_tracked _ s).bind fun e t => ?_
  split
  · exact .raise _ t
  · exact (Tracks.ofExcept t.portValue t).bind fun v u => (Tracks.ofExcept _ u).bind fun _ w => .ok _ w

theorem resetVersion_tracked : Tracked resetVersion := fun s =>
  (lookup_tracked _ s).bind fun _ t => (lookup_tracked _ t).bind fun _ u =>
    (memWrite_tracked _ _ u).bind fun _ v => (memWrite_tracked _ _ v).bind fun _ => writeBack_tracked

theorem seqStepDo_tracked (k : BitVec 4) {p : State → Ret Unit} (hp : Tracked p) : Tracked (seqStepDo k p) :=
  fun s => (hp (s.setSeqStep k)).after rfl rfl

/-! The procedures of the steps, with the operands each takes from the state it begins in. -/

theorem selectOperand_tracked : Tracked (fun t => selectChannel t.opnd.chan t) := fun t =>
  selectChannel_tracked t.opnd.chan t

theorem setParamField_tracked (field : Params → Byte) (v : Value) :
    Tracked (fun t => setOwnField (field t.cfg.params) v t) := fun t => setOwnField_tracked (field t.cfg.params) v t

theorem writeFirmware_tracked (fw : List Byte) : Tracked (fun t => writeFlash t.cfg.params.fwBase.toNat fw t) := fun t =>
  writeFlash_tracked t.cfg.params.fwBase.toNat fw t

theorem flashSteps_tracked (fw : List Byte) : Tracked (flashSteps fw) := by
  intro s
  unfold flashSteps
  refine (seqStepDo_tracked 1 selectOperand_tracked s).bind fun _ s => ?_
  refine (seqStepDo_tracked 2 (setParamField_tracked Params.fMarker _) s).bind fun _ s => ?_
  refine (seqStepDo_tracked 3 (setParamField_tracked Params.fName _) s).bind fun _ s => ?_
  refine (seqStepDo_tracked 4 resetVersion_tracked s).bind fun _ s => ?_
  refine (seqStepDo_tracked 5 (writeFirmware_tracked fw) s).bind fun _ s => ?_
  refine (seqStepDo_tracked 6 (setParamField_tracked Params.fName _) s).bind fun _ s => ?_
  refine (seqStepDo_tracked 7 (setParamField_tracked Params.fMarker _) s).bind fun _ s => ?_
  exact seqStepDo_tracked 8 exitSession_tracked s

theorem fwBytes_tracked : Tracked fwBytes := by
  intro s
  unfold fwBytes
  show Tracks s (if s.fw.length = s.opnd.len.toNat then _ else _) (if s.fw.length = s.opnd.len.toNat then _ else _)
  split
  · exact .ok _ s
  · exact .broken _ s

theorem flashAll_tracked : Tracked flashAll := by
  intro s
  unfold flashAll
  show Tracks s
    (if s.linkUp = false then _ else if 65536 < s.cfg.params.fwBase.toNat + s.opnd.len.toNat then _ else _)
    (if s.linkUp = false then _ else if 65536 < s.cfg.params.fwBase.toNat + s.opnd.len.toNat then _ else _)
  split
  · exact .raise _ s
  split
  · exact .raise _ s
  exact (fwBytes_tracked s).bind fun fw => flashSteps_tracked fw

/-- The procedure of every operation is tracked. -/
theorem Carries.tracked {i : Instr} {o : Operation} (h : Carries i o) : Tracked o.body := by
  intro t
  cases h with
  | checksum row c => exact .ok _ t
  | msp row => exact mspTransact_tracked t.opnd.cmd t.outBytes t.opnd.cap.toNat t
  | send => exact e4wSend_tracked (lowByte t.opnd.cmd) t.opnd.addr t.outBytes t
  | readFlash => exact readFlash_tracked t.opnd.addr.toNat t.opnd.len.toNat t
  | writeFlash => exact writeFlash_tracked t.opnd.addr.toNat t.outBytes t
  | fetch => exact fetch_tracked t
  | getField => exact getField_tracked t.opnd.field t
  | setField =>
    exact (lookup_tracked t.opnd.field t).bind fun e u => (Tracks.ofExcept u.portValue u).bind fun v =>
      setField_tracked e v
  | flashAll => exact flashAll_tracked t
  | selectChannel => exact selectOperand_tracked t
  | exitSession => exact exitSession_tracked t
  | reservedOp row => exact .raise _ t
  | status row => exact .raise _ t
  | ack b row => exact e4wAck_tracked b t
  | deviceInit => exact deviceInit_tracked t.opnd.chan t
  | deviceRead =>
    show Tracks t (if t.linkUp = false then _ else _) (if t.linkUp = false then _ else _)
    split
    · exact .raise _ t
    · exact (oneChunk_tracked t).bind fun n u => deviceRead_tracked u.opnd.addr n u
  | deviceWrite => exact deviceWrite_tracked t.opnd.addr t.outBytes t
  | exit => exact bootloaderExit_tracked t
  | requestFrame => exact e4wPut_tracked (lowByte t.opnd.cmd) t.opnd.addr t.outBytes t
  | replyFrame =>
    show Tracks t (if t.linkUp = false then _ else _) (if t.linkUp = false then _ else _)
    split
    · exact .raise _ t
    · exact e4wReply_tracked t
  | lengthByte => exact (oneChunk_tracked t).bind fun n u => .ok _ u
  | settingsBlock => exact fetchIfAbsent_tracked t
  | tableEntry => exact lookup_tracked t.opnd.field t
  | codec row => exact throughCodec_tracked _ t
  | ownField row field v => exact setParamField_tracked field v t

/-! ## Two runs of an instruction -/

/-- The results of an operation do not look at the host's coming resets. -/
theorem Carries.results_undisturbed {i : Instr} {o : Operation} (h : Carries i o) (a : o.Val) (t : State) :
    o.results a t.undisturbed = o.results a t := by
  cases h with
  | getField => cases a <;> rfl
  | codec row => cases a <;> rfl
  | _ => rfl

/-- Neither does the error entry. -/
theorem raiseEntry_undisturbed (op : BitVec 4) (e : Status) (t : State) :
    raiseEntry op e t.undisturbed = (raiseEntry op e t).undisturbed := by
  by_cases hstep : op = 0xB ∧ t.seqStep ≠ 0
  · obtain ⟨rfl, hne⟩ := hstep
    rw [raiseEntry_wrapped hne, raiseEntry_wrapped (s := t.undisturbed) hne]
    rfl
  · rw [raiseEntry_plain hstep, raiseEntry_plain (s := t.undisturbed) hstep]
    rfl

@[simp] theorem raiseEntry_env (op : BitVec 4) (e : Status) (t : State) : (raiseEntry op e t).env = t.env := by
  obtain ⟨r, bs, h⟩ := raiseEntry_frame op e t
  rw [h]
  rfl

@[simp] theorem raiseEntry_events (op : BitVec 4) (e : Status) (t : State) : (raiseEntry op e t).events = t.events := by
  obtain ⟨r, bs, h⟩ := raiseEntry_frame op e t
  rw [h]
  rfl

/-- An instruction from `s`, with the host's coming resets and without: both runs end alike, or the first is abandoned at a stream call that the second makes, or neither answers a state. -/
inductive ExecTracks (i : Instr) (s : State) : Prop where
  | through (t : State) (es : List StreamEvent) (left : exec i s = .next t)
      (alone : exec i s.undisturbed = .next t.undisturbed) (events : t.events = s.events ++ es)
      (passes : Passes s.env.abandon es.length t.env.abandon)
  | cut (t u : State) (es more : List StreamEvent) (stopped : exec i s = .next t) (alone : exec i s.undisturbed = .next u)
      (due : s.env.abandon = es.length :: t.env.abandon) (session : NewSession s t) (events : t.events = s.events ++ es)
      (further : u.events = s.events ++ es ++ more) (some : more ≠ [])
  | none (stopped : ∀ t, exec i s ≠ .next t) (alone : ∀ u, exec i s.undisturbed ≠ .next u)

theorem ExecTracks.atOnce {i : Instr} {s t : State} (left : exec i s = .next t)
    (alone : exec i s.undisturbed = .next t.undisturbed) (events : t.events = s.events) (env : t.env = s.env) :
    ExecTracks i s :=
  .through t [] left alone (by simp [events]) (env ▸ Passes.zero _)

/-- An operation whose procedure is abandoned goes on in an operation left to run, whatever its end but a fault. -/
theorem Operation.run_of_outcome {o : Operation} {s : State} (h : ∀ f t, o.body s.begin ≠ .stop (.broken f) t) :
    ∃ u, o.run s = .next u ∧ u.events = (o.body s.begin).state.events := by
  show ∃ u, runOp (o.op s) o.body o.results s = .next u ∧ _
  rcases runOp_cases (o.op s) o.body o.results s with
    ⟨a, t, hb, hr⟩ | ⟨e, t, hb, hr⟩ | ⟨t, hb, hr⟩ | ⟨f, t, hb, -⟩
  · exact ⟨_, hr, by rw [hb]; rfl⟩
  · exact ⟨_, hr, by rw [hb]; simp⟩
  · exact ⟨_, hr, by rw [hb]; rfl⟩
  · exact absurd hb (h f t)

/-- A fault of an operation is met before the first stream call. -/
theorem exec_fault_undisturbed {i : Instr} {s : State} {f : Fault} (h : exec i s.undisturbed = .fault f) :
    exec i s = .fault f := by
  have answers := exec_answers i s.undisturbed
  rw [h] at answers
  cases answers with
  | fault isFlashAll mismatch =>
    subst isFlashAll
    exact execFlashAll_mismatch mismatch

theorem Operation.run_broken {o : Operation} {s t : State} {f : Fault} (h : o.body s.begin = .stop (.broken f) t) :
    o.run s = .fault f := runOp_broken h

theorem Carries.execTracks {i : Instr} {o : Operation} (hc : Carries i o) (eq : ∀ t, exec i t = o.run t) (s : State) :
    ExecTracks i s := by
  have faulty : ∀ f t, o.body s.undisturbed.begin = .stop (.broken f) t → exec i s = .fault f := fun f t hb =>
    exec_fault_undisturbed ((eq s.undisturbed).trans (Operation.run_broken hb))
  have tracks : Tracks s.begin (o.body s.begin) (o.body s.undisturbed.begin) := hc.tracked s.begin
  cases tracks with
  | through es events passes goesOn same =>
    have run : ∀ t, exec i t = runOp (o.op t) o.body o.results t := eq
    have op : o.op s.undisturbed = o.op s := by cases hc <;> rfl
    cases hb : o.body s.begin with
    | ok a t =>
      rw [hb] at same events passes
      refine .through (t.endOp (o.results a t).1 (o.results a t).2) es ?_ ?_ events passes
      · rw [run, runOp_ok hb]
      · rw [run, runOp_ok same, hc.results_undisturbed]
        rfl
    | stop e t =>
      rw [hb] at same events passes
      cases e with
      | raised e =>
        refine .through (raiseEntry (o.op s) e t) es ?_ ?_ (by rw [raiseEntry_events]; exact events)
          (by rw [raiseEntry_env]; exact passes)
        · rw [run, runOp_raise hb]
        · rw [run, runOp_raise same, op, raiseEntry_undisturbed]
      | abandoned => exact absurd hb (goesOn t)
      | broken f =>
        have left := faulty f t.undisturbed same
        refine .none (fun u hu => ?_) fun u hu => ?_
        · rw [left] at hu; cases hu
        · rw [run, runOp_broken same] at hu; cases hu
  | cut t es more ks stops due left events further some =>
    have stopped : exec i s = .next (t.setEnv t.env.afterAbandon).newSession := by
      rw [eq]
      exact runOp_abandoned stops
    have noFault : ∀ f u, o.body s.undisturbed.begin ≠ .stop (.broken f) u := by
      intro f u hu
      rw [faulty f u hu] at stopped
      cases stopped
    obtain ⟨u, alone, hu⟩ := Operation.run_of_outcome noFault
    have run := (hc.ran s.begin).run
    rw [stops] at run
    have begun : SameHost s.begin t := sameHost_rel.of_run run
    have host : SameHost s t := begun
    refine .cut _ u es more stopped ((eq _).trans alone) ?_
      (newSession_of_sameHost (t := t.setEnv _) host) events (hu.trans further) some
    show s.env.abandon = es.length :: t.env.abandon.tail
    rw [left]
    exact due

/-- Every instruction is tracked. -/
theorem exec_tracks (i : Instr) (s : State) : ExecTracks i s := by
  cases exec_means i with
  | kind k row eq => exact .atOnce (eq s) (eq s.undisturbed) rfl rfl
  | refused code row eq => exact .none (fun t h => by rw [eq] at h; cases h) fun t h => by rw [eq] at h; cases h
  | ok row eq => exact .atOnce (eq s) (eq s.undisturbed) rfl rfl
  | commandError row eq => exact .atOnce (eq s) (eq s.undisturbed) rfl rfl
  | stepFailed e row eq => exact .atOnce (eq s) (eq s.undisturbed) rfl rfl
  | operation o hc eq => exact hc.execTracks eq s

end Sys2Proof.Machine
end

section
/-! SUPPORT. The verdict of a transaction on whatever a script of the environment answers: of E4W_SEND (R180) and of MSP_TRANSACT (R160). -/

namespace Sys2Proof.Machine

/-! ## Calls of a script -/

theorem SameHost.cfg {s t : State} (h : SameHost s t) : t.cfg = s.cfg := h.1
theorem SameHost.timeout {s t : State} (h : SameHost s t) : t.timeout = s.timeout := h.2.1
theorem SameHost.opnd {s t : State} (h : SameHost s t) : t.opnd = s.opnd := h.2.2.1
theorem SameHost.linkUp {s t : State} (h : SameHost s t) : t.linkUp = s.linkUp := h.2.2.2.2.1

/-- `t` is `s` after the stream events `es`, with the environment `env` left; the result registers are as they were. -/
structure Heard (s t : State) (es : List StreamEvent) (env : Env) : Prop where
  host : SameHost s t
  seqStep : t.seqStep = s.seqStep
  res : t.res = s.res
  events : t.events = s.events ++ es
  env : t.env = env

theorem Heard.trans {s t u : State} {es fs : List StreamEvent} {env env' : Env} (h : Heard s t es env)
    (g : Heard t u fs env') : Heard s u (es ++ fs) env' where
  host := sameHost_rel.trans _ _ _ h.host g.host
  seqStep := g.seqStep.trans h.seqStep
  res := g.res.trans h.res
  events := by rw [g.events, h.events, List.append_assoc]
  env := g.env

theorem Heard.setRx {s t : State} {es : List StreamEvent} {env : Env} (h : Heard s t es env) (bs : List Byte) :
    Heard s (t.setRx bs) es env := ⟨h.host, h.seqStep, h.res, h.events, h.env⟩

/-- A read takes what is on the line before what arrives, up to its bound, and leaves the rest there (R34, R343). -/
theorem streamRead_scripted (max : Nat) {s : State} {x : List Byte} {xs : List (List Byte)} (h0 : s.env.abandon = [])
    (h1 : s.env.arrivals = x :: xs) :
    ∃ t, streamRead max s = .ok ((s.env.line ++ x).take max) t ∧
      Heard s t [.read s.seqStep max s.timeout ((s.env.line ++ x).take max)]
        { s.env with line := (s.env.line ++ x).drop max, arrivals := xs } := by
  have line : s.nextLine = s.env.line ++ x := by simp [State.nextLine, h1]
  refine ⟨_, by rw [streamRead, if_neg (by simp [Env.abandonsNow_of_nil h0]), line], ?_⟩
  exact ⟨⟨rfl, rfl, rfl, rfl, rfl, rfl, rfl⟩, rfl, rfl, rfl, by simp [Env.afterRead_of_nil h0, h1]⟩

/-- A write of which the script takes `n` bytes. -/
theorem streamWrite_scripted (bs tx : List Byte) {s : State} {n : Nat} {ns : List Nat} (h0 : s.env.abandon = [])
    (h1 : s.env.accepts = n :: ns) :
    ∃ t, streamWrite bs (s.setTx tx) = .ok (min n bs.length) t ∧
      Heard s t [.write s.seqStep bs (min n bs.length)] { s.env with accepts := ns } :=
  ⟨_, streamWrite_short (s := s.setTx tx) h0 h1, ⟨rfl, rfl, rfl, rfl, rfl, rfl, rfl⟩, rfl, rfl, rfl, rfl⟩

/-! ## E4W_SEND -/

/-- The three ways a reply that came whole is answered: the checksum, then the acknowledgement (R184, R185). -/
theorem e4wCheck_eq (h b : List Byte) (s : State) :
    e4wCheck h b s =
      if crc16xOf (h ++ b.take (e4wDeclared h + 1)) 0 ≠ unbe16 (b.drop (e4wDeclared h + 1)) then raise .crcMismatch s
      else if b.getD (e4wDeclared h) 0 ≠ 0 then raise .commandError (s.setAck (b.getD (e4wDeclared h) 0))
      else .ok (b.take (e4wDeclared h)) (s.setAck (b.getD (e4wDeclared h) 0)) := by
  unfold e4wCheck e4wAck ackError
  by_cases hack : b.getD (e4wDeclared h) 0 = 0
  · rw [if_pos hack, if_neg (not_not.2 hack)]; rfl
  · rw [if_neg hack, if_pos hack]; rfl

/-- The reply of a script: a short header, a short rest, or the check of what came (R103, R187). -/
theorem e4wReply_scripted {s : State} {x y h l b : List Byte} {xs : List (List Byte)} (h0 : s.env.abandon = [])
    (h1 : s.env.arrivals = x :: y :: xs) (hh : h = (s.env.line ++ x).take 5) (hl : l = (s.env.line ++ x).drop 5 ++ y)
    (hb : b = l.take (e4wDeclared h + 3)) :
    ∃ t u, Heard s t [.read s.seqStep 5 s.timeout h]
        { s.env with line := (s.env.line ++ x).drop 5, arrivals := y :: xs } ∧
      Heard s u [.read s.seqStep 5 s.timeout h, .read s.seqStep (e4wDeclared h + 3) s.timeout b]
        { s.env with line := l.drop (e4wDeclared h + 3), arrivals := xs } ∧
      e4wReply s =
        if h.length < 5 then raise .shortRead t
        else if b.length < e4wDeclared h + 3 then raise .shortRead u else e4wCheck h b u := by
  obtain ⟨t, header, heardT⟩ := streamRead_scripted 5 h0 h1
  rw [← hh] at header heardT
  obtain ⟨u, rest, heardU⟩ := streamRead_scripted (e4wDeclared h + 3) (s := t.setRx h) (x := y) (xs := xs)
    (by rw [State.setRx_env, heardT.env]; exact h0) (by rw [State.setRx_env, heardT.env])
  have line : (t.setRx h).env.line ++ y = l := by rw [State.setRx_env, heardT.env, hl]
  rw [line, ← hb] at rest heardU
  refine ⟨t.setRx h, u.setRx (h ++ b), heardT.setRx h, ?_, ?_⟩
  · have both := ((heardT.setRx h).trans heardU).setRx (h ++ b)
    rw [(heardT.setRx h).seqStep, (heardT.setRx h).host.timeout, State.setRx_env, heardT.env] at both
    exact both
  · rw [e4wReply, header, Ret.bind_ok, rest, Ret.bind_ok]

/-- The request of a script (lines 1 to 8 of R180). -/
theorem e4wPut_scripted {s : State} {cmd : Byte} {addr : Half} {out : List Byte} {n : Nat} {ns : List Nat}
    (hl : s.linkUp = true) (ho1 : 1 ≤ out.length) (ho2 : out.length ≤ 256) (h0 : s.env.abandon = [])
    (h2 : s.env.accepts = n :: ns) :
    ∃ t, Heard s t [.write s.seqStep (e4wRequest s.cfg.params cmd addr out) (min n (7 + out.length))]
        { s.env with accepts := ns } ∧
      e4wPut cmd addr out s = if n < 7 + out.length then raise .shortWrite t else .ok () t := by
  obtain ⟨t, sent, heard⟩ := streamWrite_scripted (e4wRequest s.cfg.params cmd addr out)
    (e4wRequest s.cfg.params cmd addr out) h0 h2
  rw [e4wRequest_length] at sent heard
  refine ⟨t, heard, ?_⟩
  rw [e4wPut, if_neg (by simp [hl]), if_neg (by omega), if_neg (by omega), sent, Ret.bind_ok]
  have took : (min n (7 + out.length) < 7 + out.length) = (n < 7 + out.length) := by
    simp only [eq_iff_iff]; omega
  simp only [e4wRequest_length, took]

@[simp] theorem outPrefix_length (n : Nat) (bs : List Byte) : (outPrefix n bs).length = n := by
  simp only [outPrefix, List.length_append, List.length_take, List.length_replicate]
  omega

@[simp] theorem State.outBytes_length (s : State) : s.outBytes.length = s.opnd.len.toNat := outPrefix_length _ _

/-- An error of E4W_SEND: the acknowledgement taken, if any, and no payload (R295). -/
theorem execE4wSend_raise {s t : State} {e : Status}
    (h : e4wSend (lowByte s.opnd.cmd) s.opnd.addr s.outBytes s.begin = raise e t) :
    exec .e4wSend s = .next (t.endOp { status := statusCode e, ack := t.res.ack } []) := by
  dsimp only [exec, execE4wSend]
  refine (runOp_raise ?_).trans (congrArg _ (raiseEntry_ack (by decide) e t))
  exact h

theorem execE4wSend_ok {s t : State} {p : List Byte}
    (h : e4wSend (lowByte s.opnd.cmd) s.opnd.addr s.outBytes s.begin = .ok p t) :
    exec .e4wSend s = .next (t.endOp { ack := t.res.ack, len := BitVec.ofNat 32 p.length } p) := by
  dsimp only [exec, execE4wSend]
  refine runOp_ok (a := p) ?_
  exact h

/-- The checksum of a reply stands in its last two bytes, high byte first (R101). -/
theorem unbe16_drop (b : List Byte) (k : Nat) : unbe16 (b.drop k) = halfOf (b.getD k 0) (b.getD (k + 1) 0) := by
  simp [unbe16, List.getD_eq_getElem?_getD]

/-- Settles O31: the tests of R180 in their order, each with what has been sent and read by then. -/
theorem e4wVerdict : Obligations.E4wVerdict := by
  intro s n ns x y h l b xs hlink hlen1 hlen2 hab hacc harr hh hl hb
  have declared : lenDec (h.getD 4 0) = e4wDeclared h := rfl
  rw [declared] at hb ⊢
  obtain ⟨t, sent, put⟩ := e4wPut_scripted (s := s.begin) (cmd := lowByte s.opnd.cmd) (addr := s.opnd.addr)
    (out := s.outBytes) hlink (by simpa using hlen1) (by simpa using hlen2) hab hacc
  rw [State.outBytes_length] at put sent
  by_cases hshort : n < 7 + s.opnd.len.toNat
  · rw [if_pos hshort] at put
    refine ⟨_, execE4wSend_raise (by rw [e4wSend, put, raise_bind]), ?_⟩
    simp [hshort, sent.events, sent.env, sent.res, State.begin, statusCode]
  rw [if_neg hshort] at put
  obtain ⟨u, v, header, whole, reply⟩ := e4wReply_scripted (s := t) (x := x) (y := y) (h := h) (l := l) (b := b) (xs := xs)
    (by rw [sent.env]; exact hab) (by rw [sent.env]; exact harr) (by rw [sent.env]; exact hh)
    (by rw [sent.env]; exact hl) hb
  have send : e4wSend (lowByte s.opnd.cmd) s.opnd.addr s.outBytes s.begin = e4wReply t := by
    rw [e4wSend, put, Ret.bind_ok]
  rw [reply] at send
  have heardU := sent.trans header
  have heardV := sent.trans whole
  rw [sent.seqStep, sent.host.timeout, sent.env] at heardU heardV
  by_cases hhead : h.length < 5
  · rw [if_pos hhead] at send
    refine ⟨_, execE4wSend_raise send, ?_⟩
    have none : (s.env.line ++ x).drop 5 = [] := by
      rw [hh, List.length_take] at hhead
      exact List.drop_eq_nil_of_le (by omega)
    have env : u.env = { s.env with accepts := ns, line := [], arrivals := y :: xs } := none ▸ heardU.env
    simp [hshort, hhead, heardU.events, heardU.res, env, State.begin, statusCode]
  rw [if_neg hhead] at send
  have env : v.env = { s.env with accepts := ns, line := l.drop (e4wDeclared h + 3), arrivals := xs } := heardV.env
  by_cases hrest : b.length < e4wDeclared h + 3
  · rw [if_pos hrest] at send
    refine ⟨_, execE4wSend_raise send, ?_⟩
    simp [hshort, hhead, hrest, heardV.events, heardV.res, env, State.begin, statusCode]
  rw [if_neg hrest, e4wCheck_eq, unbe16_drop] at send
  simp only [if_neg hshort, if_neg hhead, if_neg hrest]
  have few : b.length = e4wDeclared h + 3 := by
    have most : b.length ≤ e4wDeclared h + 3 := hb ▸ List.length_take_le _ _
    omega
  have payload : 1 ≤ e4wDeclared h ∧ e4wDeclared h ≤ 256 := lenDec_range _
  generalize b.getD (e4wDeclared h) 0 = ack at send ⊢
  generalize halfOf (b.getD (e4wDeclared h + 1) 0) (b.getD (e4wDeclared h + 2) 0) = given at send ⊢
  generalize crc16xOf (h ++ b.take (e4wDeclared h + 1)) 0 = made at send ⊢
  by_cases hcrc : made ≠ given
  · rw [if_pos hcrc] at send
    refine ⟨_, execE4wSend_raise send, ?_⟩
    simp [hcrc, heardV.events, heardV.res, env, State.begin, statusCode]
  rw [if_neg hcrc] at send
  by_cases hack : ack ≠ 0
  · rw [if_pos hack] at send
    refine ⟨_, execE4wSend_raise send, ?_⟩
    simp [hcrc, heardV.events, env, State.begin, statusCode]
    exact hack
  · rw [if_neg hack] at send
    obtain rfl := not_not.1 hack
    refine ⟨_, execE4wSend_ok send, ?_⟩
    simp [hcrc, few, heardV.events, env, State.begin]
    omega

/-! ## MSP_TRANSACT -/

/-- The size a reply declares stands in its bytes 6 and 7, low byte first (R91). -/
theorem mspSize_eq (rx : List Byte) : mspSize rx = (rx.getD 6 0).toNat + 256 * (rx.getD 7 0).toNat := by
  simp only [mspSize, unle16, halfOf, List.getD_eq_getElem?_getD, List.getElem?_drop, Nat.reduceAdd]
  rw [BitVec.toNat_append, Nat.shiftLeft_eq, Nat.mul_comm, ← Nat.two_pow_add_eq_or_of_lt (BitVec.isLt _)]
  omega

/-- The tests of a reply, with the length test said once (R165). -/
theorem mspParse_eq (p : Params) (cap : Nat) (rx : List Byte) :
    mspParse p cap rx =
      if rx.head? ≠ some p.mspP0 then .error .badPreamble
      else if rx.length < 9 ∨ rx.length ≠ 9 + mspSize rx then .error .lengthMismatch
      else if crc8Of ((rx.drop 3).take (rx.length - 4)) p.mspPoly ≠ rx.getD (rx.length - 1) 0 then .error .crcMismatch
      else .ok ((rx.drop 8).take (min (mspSize rx) cap)) := by
  rw [mspParse]
  by_cases hlen : rx.length < 9 ∨ rx.length ≠ 9 + mspSize rx
  · rcases hlen with hlen | hlen <;> simp [hlen]
  · obtain ⟨hmin, hsize⟩ := not_or.1 hlen
    rw [if_neg hlen, if_neg hmin, if_neg hsize, show rx.length - 4 = 5 + mspSize rx by omega,
      show rx.length - 1 = 8 + mspSize rx by omega]

/-- The transaction of a script that takes the whole request: the request, one read, and the tests of what came. -/
theorem mspTransact_scripted {s : State} {c : Half} {out x rx : List Byte} {cap n : Nat} {ns : List Nat}
    {xs : List (List Byte)} (hl : s.linkUp = true) (hsize : out.length ≤ 65535)
    (hframe : 9 + out.length ≤ s.cfg.params.mspMaxFrame) (h0 : s.env.abandon = []) (h1 : s.env.accepts = n :: ns)
    (hn : 9 + out.length ≤ n) (h2 : s.env.arrivals = x :: xs)
    (hrx : rx = (s.env.line ++ x).take s.cfg.params.mspMaxFrame) :
    ∃ t, Heard s t [.write s.seqStep (mspRequest s.cfg.params c out) (9 + out.length),
          .read s.seqStep s.cfg.params.mspMaxFrame s.timeout rx]
        { s.env with accepts := ns, line := (s.env.line ++ x).drop s.cfg.params.mspMaxFrame, arrivals := xs } ∧
      mspTransact c out cap s = ofExcept (mspParse s.cfg.params cap rx) t := by
  obtain ⟨t, sent, heardT⟩ := streamWrite_scripted (mspRequest s.cfg.params c out) (mspRequest s.cfg.params c out) h0 h1
  rw [mspRequest_length, Nat.min_eq_right hn] at sent heardT
  obtain ⟨u, reply, heardU⟩ := streamRead_scripted s.cfg.params.mspMaxFrame (s := t) (x := x) (xs := xs)
    (by rw [heardT.env]; exact h0) (by rw [heardT.env]; exact h2)
  have line : t.env.line ++ x = s.env.line ++ x := by rw [heardT.env]
  rw [line, ← hrx] at reply heardU
  have both := (heardT.trans heardU).setRx rx
  rw [heardT.seqStep, heardT.host.timeout, heardT.env] at both
  have fits : mspTooLong s.cfg.params out = false := by simp [mspTooLong]; omega
  have cfg : t.cfg = s.cfg := heardT.host.cfg
  refine ⟨_, both, ?_⟩
  rw [mspTransact, if_neg (by simp [hl]), if_neg (by simp [fits]), sent, Ret.bind_ok,
    if_neg (by rw [mspRequest_length]; omega), cfg, reply, Ret.bind_ok, heardU.host.cfg, cfg]

/-- An error of MSP_TRANSACT hands back nothing (R165). -/
theorem execMspTransact_raise {s t : State} {e : Status}
    (h : mspTransact s.opnd.cmd s.outBytes s.opnd.cap.toNat s.begin = raise e t) :
    exec .mspTransact s = .next (t.endOp { status := statusCode e } []) := by
  dsimp only [exec, execMspTransact]
  refine (runOp_raise ?_).trans (congrArg _ (raiseEntry_plain (op := 0x4) (s := t) (by simp) e))
  exact h

theorem execMspTransact_ok {s t : State} {p : List Byte}
    (h : mspTransact s.opnd.cmd s.outBytes s.opnd.cap.toNat s.begin = .ok p t) :
    exec .mspTransact s = .next (t.endOp { len := BitVec.ofNat 32 p.length } p) := by
  dsimp only [exec, execMspTransact]
  refine runOp_ok (a := p) ?_
  exact h

/-- Settles O27: the one read of `mspTransact_scripted`, and the tests of R165 in their order. -/
theorem mspVerdict : Obligations.MspVerdict := by
  intro s n ns x rx xs hlink hsize hframe hab hacc hn harr hrx
  obtain ⟨t, heard, sent⟩ := mspTransact_scripted (s := s.begin) (c := s.opnd.cmd) (out := s.outBytes)
    (cap := s.opnd.cap.toNat) hlink (by simpa using hsize) (by simpa using hframe) hab hacc (by simpa using hn) harr hrx
  rw [State.outBytes_length] at heard
  have cfg : s.begin.cfg = s.cfg := rfl
  rw [mspParse_eq, cfg] at sent
  rw [← mspSize_eq]
  by_cases hhead : rx.head? ≠ some s.cfg.params.mspP0
  · rw [if_pos hhead] at sent ⊢
    exact ⟨_, execMspTransact_raise sent, rfl, fun _ => ⟨rfl, rfl⟩, heard.events, heard.env⟩
  rw [if_neg hhead] at sent ⊢
  by_cases hlen : rx.length < 9 ∨ rx.length ≠ 9 + mspSize rx
  · rw [if_pos hlen] at sent ⊢
    exact ⟨_, execMspTransact_raise sent, rfl, fun _ => ⟨rfl, rfl⟩, heard.events, heard.env⟩
  rw [if_neg hlen] at sent ⊢
  by_cases hcrc : crc8Of ((rx.drop 3).take (rx.length - 4)) s.cfg.params.mspPoly ≠ rx.getD (rx.length - 1) 0
  · rw [if_pos hcrc] at sent ⊢
    exact ⟨_, execMspTransact_raise sent, rfl, fun _ => ⟨rfl, rfl⟩, heard.events, heard.env⟩
  · rw [if_neg hcrc] at sent ⊢
    exact ⟨_, execMspTransact_ok sent, rfl, fun h => absurd rfl h, heard.events, heard.env⟩

end Sys2Proof.Machine
end

section
/-! SUPPORT. An operation abandoned by a reset, from the two runs of `exec_tracks`. -/

namespace Sys2Proof.Machine

/-- An operation that took a reset was cut by it. -/
theorem ExecTracks.cut_of_taken {i : Instr} {s t : State} (h : exec i s = .next t)
    (taken : t.env.abandon.length < s.env.abandon.length) :
    NewSession s t ∧ ∃ (u : State) (es more : List StreamEvent) (k : Nat), exec i s.undisturbed = .next u ∧
      s.env.abandon = k :: t.env.abandon ∧ es.length = k ∧ more ≠ [] ∧
      t.events = s.events ++ es ∧ u.events = s.events ++ es ++ more := by
  cases exec_tracks i s with
  | through t' es left alone events passes =>
    rw [left] at h
    cases h
    rcases habandon : s.env.abandon with _ | ⟨k, ks⟩
    · rw [habandon] at taken
      cases taken
    · rw [habandon] at passes taken
      obtain ⟨-, rest⟩ := passes
      rw [rest] at taken
      exact absurd taken (lt_irrefl _)
  | cut t' u es more stopped alone due session events further some =>
    rw [stopped] at h
    cases h
    exact ⟨session, u, es, more, es.length, alone, due, rfl, some, events, further⟩
  | none stopped alone => exact absurd h (stopped t)

/-- A reset due after `k` stream calls cuts an operation that has more of them. -/
theorem exec_cut {i : Instr} {s u : State} {k : Nat} {ks : List Nat} {es : List StreamEvent} (hk : s.env.abandon = k :: ks)
    (alone : exec i s.undisturbed = .next u) (events : u.events = s.events ++ es) (more : k < es.length) :
    ∃ t, exec i s = .next t ∧ NewSession s t ∧ t.events = s.events ++ es.take k ∧ t.env.abandon = ks := by
  cases exec_tracks i s with
  | through t fs left alone' events' passes =>
    rw [alone'] at alone
    cases alone
    obtain rfl : fs = es := List.append_cancel_left (events'.symm.trans events)
    rw [hk] at passes
    obtain ⟨few, -⟩ := passes
    omega
  | cut t u' fs rest stopped alone' due session events' further some =>
    rw [alone'] at alone
    cases alone
    have all : fs ++ rest = es :=
      List.append_cancel_left ((List.append_assoc _ _ _).symm.trans (further.symm.trans events))
    obtain ⟨rfl, hks⟩ := List.cons.inj (hk.symm.trans due)
    exact ⟨t, stopped, session, by rw [events', ← all, List.take_left], hks.symm⟩
  | none stopped alone' => exact absurd alone (alone' u)

/-- An operation with at most `k` stream calls ends as it would alone, and the reset still stands. -/
theorem exec_through {i : Instr} {s u : State} {k : Nat} {ks : List Nat} {es : List StreamEvent}
    (hk : s.env.abandon = k :: ks) (alone : exec i s.undisturbed = .next u) (events : u.events = s.events ++ es)
    (few : es.length ≤ k) :
    exec i s = .next { u with env := { u.env with abandon := (k - es.length) :: ks } } := by
  cases exec_tracks i s with
  | through t fs left alone' events' passes =>
    rw [alone'] at alone
    cases alone
    obtain rfl : fs = es := List.append_cancel_left (events'.symm.trans events)
    rw [hk] at passes
    obtain ⟨-, rest⟩ := passes
    rw [left, ← rest]
    rfl
  | cut t u' fs rest stopped alone' due session events' further some =>
    rw [alone'] at alone
    cases alone
    have all : fs ++ rest = es :=
      List.append_cancel_left ((List.append_assoc _ _ _).symm.trans (further.symm.trans events))
    obtain ⟨rfl, -⟩ := List.cons.inj (hk.symm.trans due)
    have : 0 < rest.length := List.length_pos_of_ne_nil some
    rw [← all, List.length_append] at few
    omega
  | none stopped alone' => exact absurd alone (alone' u)

/-- The three stream calls of an E4W_SEND that nothing abandons and whose reply comes whole (R182). -/
theorem e4wSend_calls {s : State} {n : Nat} {ns : List Nat} {h b : List Byte} {xs : List (List Byte)}
    (hlink : s.linkUp = true) (h1 : 1 ≤ s.outBytes.length) (h2 : s.outBytes.length ≤ 256) (hline : s.env.line = [])
    (hacc : s.env.accepts = n :: ns) (hn : 263 ≤ n) (harr : s.env.arrivals = h :: b :: xs) (hh : h.length = 5)
    (hb : b.length = lenDec (h.getD 4 0) + 3) :
    ∃ u, exec .e4wSend s.undisturbed = .next u ∧ u.events = s.events ++
      [StreamEvent.write 0 (e4wRequest s.cfg.params (lowByte s.opnd.cmd) s.opnd.addr s.outBytes) (7 + s.opnd.len.toNat),
        .read 0 5 s.timeout h, .read 0 (lenDec (h.getD 4 0) + 3) s.timeout b] := by
  rw [State.outBytes_length] at h1 h2
  obtain ⟨u, alone, -, -, -, events, -⟩ := e4wVerdict s.undisturbed n ns h b h b b xs hlink h1 h2 rfl hacc harr
    (by simp [hline, ← hh]) (by simp [hline, ← hh]) (List.take_of_length_le hb.le).symm
  refine ⟨u, alone, events.trans ?_⟩
  have whole : ¬n < 7 + s.opnd.len.toNat := by omega
  simp only [State.undisturbed_events]
  rw [if_neg (show ¬n < 7 + s.undisturbed.opnd.len.toNat from whole), if_neg (show ¬h.length < 5 by omega),
    Nat.min_eq_right (show 7 + s.undisturbed.opnd.len.toNat ≤ n from Nat.le_of_not_lt whole)]
  rfl

/-- Settles O6: the cut run, the two cases of a reset to come, and a cut E4W_SEND. -/
theorem abandonedOperation : Obligations.AbandonedOperation := by
  refine ⟨fun i s t => ExecTracks.cut_of_taken, fun i s u k ks es hk alone events =>
    ⟨exec_cut hk alone events, exec_through hk alone events⟩, ?_⟩
  intro s k n ks ns h b xs hlink h1 h2 hline hacc hn harr hh hb hk hk3
  obtain ⟨u, alone, events⟩ := e4wSend_calls hlink h1 h2 hline hacc hn harr hh hb
  obtain ⟨t, next, session, cut, rest⟩ := exec_cut hk alone events (by simpa using hk3)
  refine ⟨t, next, session, rest, cut.trans (congrArg _ ?_)⟩
  exact List.take_append_of_le_length (l₁ := [_, _]) (l₂ := [_]) (by simp; omega)

end Sys2Proof.Machine
end

section
/-! SUPPORT. The read of a field, the rows of the settings run by themselves, and the channel after a session operation. -/

namespace Sys2Proof.Machine

open Ret

/-! ## A value handed back -/

/-- A value of bytes is the bytes of its field (R229). -/
theorem decodeValue_bytes {c : Codec} {raw bs : List Byte} (h : decodeValue c raw = .bytes bs) : bs = raw := by
  cases c with
  | raw => cases h
  | bounded lo hi d =>
    cases d with
    | none => cases h
    | some d =>
      dsimp only [decodeValue] at h
      split at h <;> cases h
  | scaled num den offn => cases h
  | string => cases h; rfl

/-- A procedure that leaves the state alone and hands back a value. -/
theorem runOp_value {op : BitVec 4} {body : State → Ret Value} {s : State} {v : Value} (h : body s.begin = .ok v s.begin) :
    runOp op body valueResult s = .next (s.endOp (valueResult v s.begin).1 (valueResult v s.begin).2) := runOp_ok h

/-- A field read back from a page written over the mirror. -/
theorem readBytes_written {m : Memory} {bs : List Byte} {a n : Nat} (h : a + n ≤ bs.length) :
    readBytes (writeBytes m 0 bs) a n = (bs.drop a).take n := by
  refine List.ext_getElem (by simp; omega) fun i h1 h2 => ?_
  have hi : i < n := by simpa using h1
  have inside : a + i < bs.length := by omega
  simp [readBytes, readByte_writeBytes, inside]

/-! ## GET_FIELD -/

theorem lookup_none {i : Byte} {s : State} (h : s.cfg.params.find i = none) : lookup i s = raise .unknownField s := by
  rw [lookup, h]

/-- Once the mirror is populated the field is read from it (R231). -/
theorem getField_of {i : Byte} {e : FieldEntry} {s t : State} (he : s.cfg.params.find i = some e)
    (populated : fetchIfAbsent s = .ok () t) :
    getField i s = .ok (decodeValue e.codec (readBytes t.mem e.offset e.width)) t := by
  have fits := (find_range he).2
  rw [getField, lookup_of he, Ret.bind_ok, populated, Ret.bind_ok, memRead, if_pos (by omega), Ret.bind_ok]

theorem fetchIfAbsent_cached {s : State} (h : s.cached = true) : fetchIfAbsent s = .ok () s := if_pos h

/-- The fetch of an operation that finds the mirror empty (R22, R230). -/
theorem fetchIfAbsent_answered {s : State} {r : Reply} {rest : List Reply} (hm : s.cached = false) (hl : s.linkUp = true)
    (hv : s.chanValid = true) (hp : r.payload.length = 256) (ha : s.env.answers (r :: rest)) :
    ∃ t, fetchIfAbsent s.begin = .ok () t ∧ t.res.ack = 0 ∧ t.cached = true ∧ t.mem = writeBytes s.mem 0 r.payload ∧
      t.events = s.events ++ fetchEvents 0 s.cfg.params s.timeout r := by
  obtain ⟨tx, rx, fetched, -⟩ := fetch_answered (s := s.begin) rfl hl hv hp ha
  exact ⟨_, (if_neg (by simp [State.begin, hm])).trans fetched, rfl, rfl, rfl, rfl⟩

/-- Settles O49: a populated mirror, a mirror to fetch, and an index without an entry. -/
theorem getFieldCompletes : Obligations.GetFieldCompletes := by
  refine ⟨fun s e he hc => ?_, fun s e r rest he hm hl hv hp ha => ?_, fun s he => ?_⟩
  · have read : getField s.opnd.field s.begin = .ok (decodeValue e.codec (readBytes s.mem e.offset e.width)) s.begin :=
      getField_of (s := s.begin) he (fetchIfAbsent_cached (s := s.begin) hc)
    have width : (readBytes s.mem e.offset e.width).length = e.width := readBytes_length _ _ _
    dsimp only [exec, execGetField]
    refine (runOp_value read).trans (congrArg _ ?_)
    cases hd : decodeValue e.codec (readBytes s.mem e.offset e.width) with
    | int x => rfl
    | disabled => rfl
    | bytes bs =>
      rw [← width, ← decodeValue_bytes hd]
      rfl
  · obtain ⟨t, populated, ack, cached, mem, events⟩ := fetchIfAbsent_answered hm hl hv hp ha
    have read := getField_of (s := s.begin) he populated
    have fits := (find_range he).2
    rw [mem, readBytes_written (by omega)] at read
    generalize decodeValue e.codec ((r.payload.drop e.offset).take e.width) = v at read ⊢
    refine ⟨t.endOp (valueResult v t).1 (valueResult v t).2, ?_, ⟨rfl, rfl, rfl⟩, ?_, cached, fun a => ?_, events, ?_⟩
    · dsimp only [exec, execGetField]
      exact runOp_ok read
    · cases v <;> rfl
    · show readByte t.mem a = _
      rw [mem]
      exact readByte_fetched (fun _ => rfl) _ a
    · cases v <;> exact ⟨rfl, rfl, rfl⟩
  · dsimp only [exec, execGetField]
    refine runOp_refused (e := .unknownField) ?_
    show getField s.opnd.field s.begin = _
    rw [getField, lookup_none (s := s.begin) he, raise_bind]

/-! ## The settings rows (log entry 20) -/

/-- A codec row sends the value on the port through the codec of the entry `A_FIELD`. -/
theorem exec_codecRow {i : Instr} {tag : CodecTag} (row : (i, tag) ∈ codecRows) (s : State) :
    exec i s = runOp 0x9 (throughCodec tag) valueResult s := by
  simp only [codecRows, List.mem_cons, Prod.mk.injEq, List.not_mem_nil, or_false] at row
  rcases row with ⟨rfl, rfl⟩ | ⟨rfl, rfl⟩ | ⟨rfl, rfl⟩ | ⟨rfl, rfl⟩ <;> rfl

section
variable {tag : CodecTag} {s : State} {e : FieldEntry} (he : s.cfg.params.find s.opnd.field = some e)
include he

theorem throughCodec_otherCodec (h : codecTag e.codec ≠ tag) : throughCodec tag s = raise .unknownField s := by
  rw [throughCodec, lookup_of he, Ret.bind_ok, if_pos h]

theorem throughCodec_of (h : codecTag e.codec = tag) :
    throughCodec tag s = (ofExcept s.portValue s).bind fun v s =>
      (ofExcept (encodeValue s.cfg.params.strPad e.width e.codec v) s).bind fun raw s => .ok (decodeValue e.codec raw) s := by
  rw [throughCodec, lookup_of he, Ret.bind_ok, if_neg (not_not.2 h)]

end

/-- The reserved kind is no value (R122). -/
theorem portValue_reserved {s : State} (h : s.opnd.vkind = 3) : s.portValue = .error .badValueKind := by
  rw [State.portValue, h]
  rfl

theorem ofExcept_error {α : Type} {e : Status} (s : State) : (ofExcept (.error e) s : Ret α) = raise e s := rfl

/-- A value that the codec takes comes back as the codec reads it (R225 to R229). -/
theorem codecRow_answers {i : Instr} {tag : CodecTag} {s : State} {e : FieldEntry} {v : Value} {raw : List Byte}
    (row : (i, tag) ∈ codecRows) (he : s.cfg.params.find s.opnd.field = some e) (htag : codecTag e.codec = tag)
    (hv : s.portValue = .ok v) (hraw : encodeValue s.cfg.params.strPad e.width e.codec v = .ok raw) :
    exec i s = .next (s.endOp (valueResult (decodeValue e.codec raw) s.begin).1
      (valueResult (decodeValue e.codec raw) s.begin).2) := by
  have port : s.begin.portValue = .ok v := hv
  have coded : encodeValue s.begin.cfg.params.strPad e.width e.codec v = .ok raw := hraw
  rw [exec_codecRow row]
  refine runOp_value ?_
  rw [throughCodec_of (s := s.begin) he htag, port]
  simp only [ofExcept, Ret.bind_ok]
  rw [coded]
  rfl

/-- A codec row refuses before any stream call: no entry, another codec, the reserved kind, a value the codec does not take. -/
theorem codecRow_refuses {i : Instr} {tag : CodecTag} {s : State} {x : Status} (row : (i, tag) ∈ codecRows)
    (h : throughCodec tag s.begin = raise x s.begin) : exec i s = .next (s.endOp { status := statusCode x } []) := by
  rw [exec_codecRow row]
  exact runOp_refused h

/-- Settles O53: the block, an entry, and each codec row with its refusals in their order. -/
theorem settingsRows : Obligations.SettingsRows := by
  refine ⟨fun s hc => ?_, fun s r rest hm hl hv hp ha => ?_, fun s => ?_, fun i tag s e v raw row he htag hv hraw => ?_,
    fun i tag s row => ⟨fun he => ?_, fun e he => ⟨fun htag => ?_, fun htag => ⟨fun hkind => ?_, fun v x hv hx => ?_⟩⟩⟩⟩
  · dsimp only [exec, execSettingsBlock]
    exact runOp_ok (fetchIfAbsent_cached (s := s.begin) hc)
  · obtain ⟨t, populated, ack, cached, mem, events⟩ := fetchIfAbsent_answered hm hl hv hp ha
    refine ⟨t.endOp { ack := t.res.ack } [], ?_, ?_, cached, fun a => ?_, events⟩
    · dsimp only [exec, execSettingsBlock]
      exact runOp_ok populated
    · show ({ ack := t.res.ack } : Results) = {}
      rw [ack]
    · show readByte t.mem a = _
      rw [mem]
      exact readByte_fetched (fun _ => rfl) _ a
  · dsimp only [exec, execFieldTableEntry]
    cases he : s.cfg.params.find s.opnd.field with
    | none => exact runOp_refused (lookup_none (s := s.begin) he)
    | some e => exact runOp_ok (lookup_of (s := s.begin) he)
  · have width := encodeValue_length hraw
    refine (codecRow_answers row he htag hv hraw).trans (congrArg _ ?_)
    cases hd : decodeValue e.codec raw with
    | int x => rfl
    | disabled => rfl
    | bytes bs =>
      rw [← width, ← decodeValue_bytes hd]
      rfl
  · refine codecRow_refuses (x := .unknownField) row ?_
    have none : lookup s.begin.opnd.field s.begin = raise .unknownField s.begin := lookup_none he
    rw [throughCodec, none, raise_bind]
  · exact codecRow_refuses (x := .unknownField) row (throughCodec_otherCodec (s := s.begin) he htag)
  · refine codecRow_refuses (x := .badValueKind) row ?_
    rw [throughCodec_of (s := s.begin) he htag, portValue_reserved (s := s.begin) hkind, ofExcept_error, raise_bind]
  · have port : s.begin.portValue = .ok v := hv
    have refused : encodeValue s.begin.cfg.params.strPad e.width e.codec v = .error x := hx
    refine codecRow_refuses row ?_
    rw [throughCodec_of (s := s.begin) he htag, port]
    simp only [ofExcept, Ret.bind_ok]
    rw [refused]
    rfl

/-! ## The channel after a session operation -/

/-- A transaction that nothing abandons ends with a payload or with an error, and leaves the channel as it was (R341). -/
theorem e4wSend_outcome (c : Byte) (a : Half) (out : List Byte) {s : State} (hab : s.env.abandon = []) :
    (∃ p t, e4wSend c a out s = .ok p t ∧ SameChannel s t) ∨
      ∃ e t, e4wSend c a out s = raise e t ∧ statusCode e ≠ 0 ∧ SameChannel s t := by
  have kept := sameChannel_rel.e4wSend c a out s
  cases h : e4wSend c a out s with
  | ok p t =>
    rw [h] at kept
    exact .inl ⟨p, t, rfl, kept⟩
  | stop e t =>
    rw [h] at kept
    have stops := e4wSend_stops c a out s e t h
    cases e with
    | raised e =>
      exact .inr ⟨e, t, rfl, (by decide : ∀ x ∈ Status.notConnected :: .payloadEmpty :: .payloadTooLong :: wireErrors,
        statusCode x ≠ 0) e stops, kept⟩
    | abandoned => exact absurd h ((e4wSend_ran c a out s).not_abandoned hab)
    | broken f => exact absurd stops id

/-- Settles O43: the session operations clear `CHAN_VALID` first, and only a select that ended `OK` sets it. -/
theorem channelAfterSelectOrExit : Obligations.ChannelAfterSelectOrExit := by
  intro s hab
  refine ⟨?_, ?_⟩
  · rcases e4wSend_outcome s.cfg.params.cmdDeviceInit 0 [s.opnd.chan] (s := s.begin.clearChan) hab with
      ⟨p, t, sent, kept⟩ | ⟨e, t, sent, code, kept⟩
    · refine ⟨(t.setChan s.opnd.chan).endOp { ack := t.res.ack } [], ?_, iff_of_true rfl rfl, rfl⟩
      dsimp only [exec, execSelectChannel]
      refine runOp_ok (a := ()) (t := t.setChan s.opnd.chan) ?_
      show (e4wSend s.cfg.params.cmdDeviceInit 0 [s.opnd.chan] s.begin.clearChan).bind _ = _
      rw [sent, Ret.bind_ok]
      rfl
    · have invalid : t.chanValid = false := kept.1
      refine ⟨t.endOp { status := statusCode e, ack := t.res.ack } [], ?_, iff_of_false (by simp [invalid]) code,
        kept.2.trans (if_neg code).symm⟩
      dsimp only [exec, execSelectChannel]
      refine (runOp_raise (t := t) (e := e) ?_).trans (congrArg _ (raiseEntry_ack (by decide) e t))
      show (e4wSend s.cfg.params.cmdDeviceInit 0 [s.opnd.chan] s.begin.clearChan).bind _ = _
      rw [sent, raise_bind]
  · rcases e4wSend_outcome s.cfg.params.cmdExit 0 [0x00] (s := s.begin.clearChan) hab with
      ⟨p, t, sent, kept⟩ | ⟨e, t, sent, -, kept⟩
    · refine ⟨t.endOp { ack := t.res.ack } [], ?_, kept.1, kept.2⟩
      dsimp only [exec, execExitSession]
      refine runOp_ok (a := ()) (t := t) ?_
      show (e4wSend s.cfg.params.cmdExit 0 [0x00] s.begin.clearChan).bind _ = _
      rw [sent, Ret.bind_ok]
    · refine ⟨t.endOp { status := statusCode e, ack := t.res.ack } [], ?_, kept.1, kept.2⟩
      dsimp only [exec, execExitSession]
      refine (runOp_raise (t := t) (e := e) ?_).trans (congrArg _ (raiseEntry_ack (by decide) e t))
      show (e4wSend s.cfg.params.cmdExit 0 [0x00] s.begin.clearChan).bind _ = _
      rw [sent, raise_bind]

end Sys2Proof.Machine
end

section
/-! SUPPORT. How a procedure made of transactions ends on a stream that is attached and never reset: with every transaction acknowledged, or with the error of the one that was not. -/

namespace Sys2Proof.Machine

open Ret

/-! ## One transaction -/

/-- A write on a stream that no reset disturbs. -/
theorem streamWrite_heard (bs tx : List Byte) {s : State} (hab : s.env.abandon = []) :
    ∃ w t env, streamWrite bs (s.setTx tx) = .ok w t ∧ w ≤ bs.length ∧ env.abandon = [] ∧
      Heard s t [.write s.seqStep bs w] env :=
  ⟨_, _, _, if_neg (by simp [Env.abandonsNow_of_nil hab]), Nat.min_le_right _ _, congrArg countDown hab,
    ⟨rfl, rfl, rfl, rfl, rfl, rfl, rfl⟩, rfl, rfl, rfl, rfl⟩

/-- A read on a stream that no reset disturbs. -/
theorem streamRead_heard (max : Nat) {s : State} (hab : s.env.abandon = []) :
    ∃ bs t env, streamRead max s = .ok bs t ∧ bs.length ≤ max ∧ env.abandon = [] ∧
      Heard s t [.read s.seqStep max s.timeout bs] env :=
  ⟨_, _, _, if_neg (by simp [Env.abandonsNow_of_nil hab]), List.length_take_le _ _, congrArg countDown hab,
    ⟨rfl, rfl, rfl, rfl, rfl, rfl, rfl⟩, rfl, rfl, rfl, rfl⟩

theorem acknowledged_length {es : List StreamEvent} (h : acknowledged es) : es.length = 3 := by
  obtain ⟨k, t, tx, h, b, rfl, -⟩ := h
  rfl

/-- The tests that the reply of an acknowledged transaction passed (R180). -/
theorem acknowledged_reply {w : StreamEvent} {i j : BitVec 4} {m n : Nat} {t u : Timeout} {h b : List Byte}
    (ack : acknowledged [w, .read i m t h, .read j n u b]) :
    b.length = e4wDeclared h + 3 ∧
      crc16xOf (h ++ b.take (e4wDeclared h + 1)) 0 = unbe16 (b.drop (e4wDeclared h + 1)) ∧
      b.getD (e4wDeclared h) 0 = 0 := by
  obtain ⟨k, t', tx, h', b', eq, -, length, crc, zero⟩ := ack
  simp only [List.cons.injEq, StreamEvent.read.injEq] at eq
  obtain ⟨-, ⟨-, -, -, rfl⟩, ⟨-, -, -, rfl⟩, -⟩ := eq
  exact ⟨length, crc, zero⟩

/-- The outcome of a transaction from `s`: acknowledged, or an error, with the stream events made by then. -/
inductive Transacts (s : State) : Ret (List Byte) → Prop where
  | done (p : List Byte) (t : State) (es : List StreamEvent) (events : t.events = s.events ++ es)
      (made : acknowledged es) (ack : t.res.ack = 0) : Transacts s (.ok p t)
  | failed (e : Status) (t : State) (es : List StreamEvent) (events : t.events = s.events ++ es) (called : es ≠ [])
      (few : es.length ≤ 3) (unmade : ¬acknowledged es) (error : e ∈ wireErrors)
      (ack : t.res.ack ≠ 0 ↔ e = .commandError) : Transacts s (raise e t)

/-- A transaction with a legal payload is acknowledged, or fails in the first test its answers do not pass (R180). -/
theorem e4wSend_transacts (cmd : Byte) (addr : Half) {out : List Byte} {s : State} (hl : s.linkUp = true)
    (h1 : 1 ≤ out.length) (h2 : out.length ≤ 256) (hab : s.env.abandon = []) (hack : s.res.ack = 0) :
    Transacts s (e4wSend cmd addr out s) := by
  obtain ⟨w, t, env, sent, most, habT, heardT⟩ := streamWrite_heard (e4wRequest s.cfg.params cmd addr out)
    (e4wRequest s.cfg.params cmd addr out) hab
  have put : e4wPut cmd addr out s =
      if w < (e4wRequest s.cfg.params cmd addr out).length then raise .shortWrite t else .ok () t := by
    rw [e4wPut, if_neg (by simp [hl]), if_neg (by omega), if_neg (by omega), sent, Ret.bind_ok,
      heardT.host.cfg]
  rw [e4wSend, put]
  have quiet : ∀ {u : State} {e : Status}, u.res = s.res → e ≠ .commandError → (u.res.ack ≠ 0 ↔ e = .commandError) :=
    fun hu he => iff_of_false (by rw [hu, hack]; simp) he
  by_cases short : w < (e4wRequest s.cfg.params cmd addr out).length
  · rw [if_pos short, raise_bind]
    exact .failed _ t _ heardT.events (by simp) (by simp) (fun h => by simpa using acknowledged_length h)
      (by simp [wireErrors]) (quiet heardT.res (by simp))
  rw [if_neg short, Ret.bind_ok, e4wReply]
  obtain ⟨h, u, env', header, five, habU, heardU⟩ := streamRead_heard 5 (s := t) (by rw [heardT.env]; exact habT)
  rw [header, Ret.bind_ok]
  have soFar := heardT.trans heardU
  by_cases hhead : h.length < 5
  · rw [if_pos hhead]
    exact .failed _ (u.setRx h) _ soFar.events (by simp) (by simp) (fun h => by simpa using acknowledged_length h)
      (by simp [wireErrors]) (quiet soFar.res (by simp))
  rw [if_neg hhead]
  obtain ⟨b, v, env'', rest, bound, -, heardV⟩ := streamRead_heard (e4wDeclared h + 3) (s := u.setRx h)
    (by rw [State.setRx_env, heardU.env]; exact habU)
  rw [rest, Ret.bind_ok]
  have all := ((soFar.setRx h).trans heardV).setRx (h ++ b)
  by_cases hrest : b.length < e4wDeclared h + 3
  · rw [if_pos hrest]
    refine .failed _ _ _ all.events (by simp) (by simp) (fun h => ?_) (by simp [wireErrors]) (quiet all.res (by simp))
    obtain ⟨length, -⟩ := acknowledged_reply h
    omega
  rw [if_neg hrest, e4wCheck_eq]
  by_cases hcrc : crc16xOf (h ++ b.take (e4wDeclared h + 1)) 0 ≠ unbe16 (b.drop (e4wDeclared h + 1))
  · rw [if_pos hcrc]
    refine .failed _ _ _ all.events (by simp) (by simp) (fun h => ?_) (by simp [wireErrors]) (quiet all.res (by simp))
    obtain ⟨-, crc, -⟩ := acknowledged_reply h
    exact hcrc crc
  rw [if_neg hcrc]
  by_cases hbyte : b.getD (e4wDeclared h) 0 ≠ 0
  · rw [if_pos hbyte]
    refine .failed _ _ _ all.events (by simp) (by simp) (fun h => ?_) (by simp [wireErrors]) (iff_of_true hbyte rfl)
    obtain ⟨-, -, zero⟩ := acknowledged_reply h
    exact hbyte zero
  · rw [if_neg hbyte]
    have zero := not_not.1 hbyte
    have whole : w = (e4wRequest s.cfg.params cmd addr out).length := by omega
    have reply : h.length = 5 ∧ b.length = e4wDeclared h + 3 := by omega
    refine .done _ _ _ all.events ⟨s.seqStep, s.timeout, e4wRequest s.cfg.params cmd addr out, h, b, ?_, reply.1, reply.2,
      not_not.1 hcrc, zero⟩ zero
    rw [State.setRx_seqStep, heardU.seqStep, heardT.seqStep, State.setRx_timeout, heardU.host.timeout, heardT.host.timeout, ← whole]
    rfl

/-! ## Ends of a procedure -/

/-- A procedure that ends in a state of `ok`, or with an error and a state of `failed`. -/
inductive Ends {α : Type} (ok : State → Prop) (failed : Status → State → Prop) : Ret α → Prop where
  | ok (a : α) {t : State} (h : ok t) : Ends ok failed (.ok a t)
  | raised {e : Status} {t : State} (h : failed e t) : Ends ok failed (raise e t)

section
variable {α β : Type} {ok ok' : State → Prop} {failed failed' : Status → State → Prop} {r : Ret α}

theorem Ends.mono (h : Ends ok failed r) (hok : ∀ a t, r = .ok a t → ok t → ok' t)
    (hfailed : ∀ e t, r = raise e t → failed e t → failed' e t) : Ends ok' failed' r := by
  cases h with
  | ok a h => exact .ok a (hok a _ rfl h)
  | raised h => exact .raised (hfailed _ _ rfl h)

theorem Ends.bind {f : α → State → Ret β} (h : Ends ok failed r)
    (next : ∀ a t, r = .ok a t → ok t → Ends ok' failed (f a t)) : Ends ok' failed (r.bind f) := by
  cases h with
  | ok a h => exact next a _ rfl h
  | raised h => exact .raised h

end

/-- An operation in progress on an attached stream that no reset disturbs: every transaction so far was acknowledged, `CHAN_VALID` is `v`, and at least `n` events have been issued. -/
structure Ready (n : Nat) (v : Bool) (s : State) : Prop where
  linkUp : s.linkUp = true
  undisturbed : s.env.abandon = []
  ack : s.res.ack = 0
  chanValid : s.chanValid = v
  events : n ≤ s.events.length

/-- The error, one of `es`, of a transaction made after the first `n` events; `R_ACK` tells of a `CommandError` alone. -/
structure Failed (es : List Status) (n : Nat) (e : Status) (t : State) : Prop where
  error : e ∈ es
  ack : t.res.ack ≠ 0 ↔ e = .commandError
  events : n < t.events.length

theorem Failed.mono {es fs : List Status} {n : Nat} {e : Status} {t : State} (h : Failed es n e t)
    (hes : ∀ x ∈ es, x ∈ fs) : Failed fs n e t := ⟨hes e h.error, h.ack, h.events⟩

theorem Ready.of_le {m n : Nat} {v : Bool} {s : State} (h : Ready n v s) (hm : m ≤ n) : Ready m v s :=
  ⟨h.linkUp, h.undisturbed, h.ack, h.chanValid, hm.trans h.events⟩

theorem Ready.setXfer {n : Nat} {v : Bool} {s : State} (h : Ready n v s) (x : Word) : Ready n v (s.setXfer x) :=
  ⟨h.linkUp, h.undisturbed, h.ack, h.chanValid, h.events⟩

theorem Ready.setInbuf {n : Nat} {v : Bool} {s : State} (h : Ready n v s) (bs : List Byte) : Ready n v (s.setInbuf bs) :=
  ⟨h.linkUp, h.undisturbed, h.ack, h.chanValid, h.events⟩

theorem Ready.setMem {n : Nat} {v : Bool} {s : State} (h : Ready n v s) (m : Memory) : Ready n v (s.setMem m) :=
  ⟨h.linkUp, h.undisturbed, h.ack, h.chanValid, h.events⟩

theorem Ready.setCached {n : Nat} {v : Bool} {s : State} (h : Ready n v s) : Ready n v s.setCached :=
  ⟨h.linkUp, h.undisturbed, h.ack, h.chanValid, h.events⟩

theorem Ready.setSeqStep {n : Nat} {v : Bool} {s : State} (h : Ready n v s) (k : BitVec 4) : Ready n v (s.setSeqStep k) :=
  ⟨h.linkUp, h.undisturbed, h.ack, h.chanValid, h.events⟩

theorem Ready.clearChan {n : Nat} {v : Bool} {s : State} (h : Ready n v s) : Ready n false s.clearChan :=
  ⟨h.linkUp, h.undisturbed, h.ack, rfl, h.events⟩

theorem Ready.setChan {n : Nat} {v : Bool} {s : State} (h : Ready n v s) (c : Byte) : Ready n true (s.setChan c) :=
  ⟨h.linkUp, h.undisturbed, h.ack, rfl, h.events⟩

/-! ## Transactions and transfers -/

/-- `t` is `s` after stream events that make an acknowledged transaction. -/
def Made (s t : State) : Prop := ∃ es, t.events = s.events ++ es ∧ acknowledged es

/-- `t` is `s` after at most three stream events that make no acknowledged transaction. -/
def Unmade (s t : State) : Prop := ∃ es, t.events = s.events ++ es ∧ es.length ≤ 3 ∧ ¬acknowledged es

section
variable {n : Nat} {v : Bool} {s : State}

/-- A transaction with a legal payload, with what it leaves on the list of events. -/
theorem e4wSend_made (cmd : Byte) (addr : Half) {out : List Byte} (h1 : 1 ≤ out.length) (h2 : out.length ≤ 256)
    (h : Ready n v s) :
    Ends (fun t => Ready (n + 1) v t ∧ Made s t) (fun e t => Failed wireErrors n e t ∧ Unmade s t) (e4wSend cmd addr out s) := by
  have ports := portsRel.e4wSend cmd addr out s
  have reset := undisturbed_rel.of_run (e4wSend_ran cmd addr out s).run h.undisturbed
  have channel := sameChannel_rel.e4wSend cmd addr out s
  have before := h.events
  have transacts := e4wSend_transacts cmd addr h.linkUp h1 h2 h.undisturbed h.ack
  generalize e4wSend cmd addr out s = r at ports reset channel transacts
  cases transacts with
  | done p t es events made ack =>
    have three := acknowledged_length made
    exact .ok p ⟨⟨ports.1.trans h.linkUp, reset, ack, channel.1.trans h.chanValid, by simp [events]; omega⟩, es, events, made⟩
  | failed e t es events called few unmade error ack =>
    have := List.length_pos_of_ne_nil called
    exact .raised ⟨⟨error, ack, by simp [events]; omega⟩, es, events, few, unmade⟩

theorem e4wSend_ends (cmd : Byte) (addr : Half) {out : List Byte} (h1 : 1 ≤ out.length) (h2 : out.length ≤ 256)
    (h : Ready n v s) : Ends (Ready (n + 1) v) (Failed wireErrors n) (e4wSend cmd addr out s) :=
  (e4wSend_made cmd addr h1 h2 h).mono (fun _ _ _ h => h.1) fun _ _ _ h => h.1

/-- The errors of a read: those of its transactions, and a payload of another length (R192). -/
def readErrors : List Status := .lengthMismatch :: wireErrors

theorem deviceRead_ends (addr : Half) (k : Nat) (h : Ready n v s) :
    Ends (Ready n v) (Failed readErrors n) (deviceRead addr k s) := by
  have sent : Ends (Ready (n + 1) v) (Failed readErrors n) (e4wSend s.cfg.params.cmdDeviceRead addr [lenEnc k] s) :=
    (e4wSend_ends _ _ (by simp) (by simp) h).mono (fun _ _ _ h => h) fun _ _ _ h =>
      h.mono fun _ hx => List.mem_cons_of_mem _ hx
  refine sent.bind fun p t _ ready => ?_
  split
  · exact .raised ⟨List.mem_cons_self, iff_of_false (by simp [ready.ack]) (by simp), ready.events⟩
  · exact .ok p (ready.of_le (Nat.le_succ n))

theorem readChunks_ends (addr len k i : Nat) (h : Ready n v s) :
    Ends (Ready n v) (Failed readErrors n) (readChunks addr len k i s) := by
  induction k generalizing i s with
  | zero => exact .ok () h
  | succ k ih =>
    exact (deviceRead_ends (chunkAddr addr i) (chunkLen len i) h).bind fun p t _ ready =>
      ih (i + 1) ((ready.setInbuf _).setXfer _)

/-- Some of `k` chunks of a write were acknowledged, 256 bytes each, and the one after them was not. -/
def Unwritten (s : State) (k : Nat) (t : State) : Prop :=
  ∃ (ts : List (List StreamEvent)) (last : List StreamEvent), t.events = s.events ++ (ts.flatten ++ last) ∧
    last.length ≤ 3 ∧ (∀ es ∈ ts, acknowledged es) ∧ ¬acknowledged last ∧ ts.length < k ∧
    t.res.xfer = s.res.xfer + BitVec.ofNat 32 (256 * ts.length)

theorem Unwritten.first {k : Nat} {t : State} (h : Unmade s t) (xfer : t.res.xfer = s.res.xfer) : Unwritten s (k + 1) t := by
  obtain ⟨last, events, few, unmade⟩ := h
  exact ⟨[], last, by simp [events], few, by simp, unmade, by simp, by simp [xfer]⟩

theorem Unwritten.later {k : Nat} {t u : State} {c : Word} (h : Made s t)
    (rest : Unwritten (t.setXfer (t.res.xfer + c)) k u) (xfer : t.res.xfer = s.res.xfer)
    (hc : 0 < k → c = BitVec.ofNat 32 256) : Unwritten s (k + 1) u := by
  obtain ⟨es, events, made⟩ := h
  obtain ⟨ts, last, events', few, all, unmade, less, count⟩ := rest
  refine ⟨es :: ts, last, ?_, few, ?_, unmade, by simpa using less, ?_⟩
  · rw [events', State.setXfer_events, events, List.flatten_cons]
    simp only [List.append_assoc]
  · exact List.forall_mem_cons.2 ⟨made, all⟩
  · have more : (t.setXfer (t.res.xfer + c)).res.xfer = s.res.xfer + BitVec.ofNat 32 256 := by
      rw [← xfer, ← hc (by omega)]
      rfl
    rw [count, more, List.length_cons, Nat.mul_succ, Nat.add_comm, BitVec.ofNat_add, BitVec.add_assoc]

theorem writeChunks_ends (addr : Nat) (buf : List Byte) (k i : Nat) (hi : i + k ≤ chunkCount buf.length) (h : Ready n v s) :
    Ends (Ready n v) (fun e t => Failed wireErrors n e t ∧ Unwritten s k t) (writeChunks addr buf k i s) := by
  induction k generalizing i s with
  | zero => exact .ok () h
  | succ k ih =>
    have legal := chunkLen_pos (len := buf.length) (i := i) (by omega)
    rw [← chunkBytes_length] at legal
    have xfer : (deviceWrite (chunkAddr addr i) (chunkBytes buf i) s).state.res.xfer = s.res.xfer :=
      (transactionRel.deviceWrite (chunkAddr addr i) (chunkBytes buf i) s).2.1
    have sent := e4wSend_made s.cfg.params.cmdDeviceWrite (chunkAddr addr i) legal.1 legal.2 h
    rw [writeChunks]
    unfold deviceWrite at xfer ⊢
    generalize e4wSend s.cfg.params.cmdDeviceWrite (chunkAddr addr i) (chunkBytes buf i) s = r at sent xfer
    cases sent with
    | raised failed => exact .raised ⟨failed.1, .first failed.2 xfer⟩
    | ok p made =>
      refine (ih (i + 1) (by omega) ((made.1.of_le (Nat.le_succ n)).setXfer _)).mono (fun _ _ _ h => h) ?_
      rintro e u - ⟨failed, rest⟩
      refine ⟨failed, .later made.2 rest xfer fun hk => ?_⟩
      have full : chunkLen buf.length i = 256 := by
        unfold chunkCount at hi
        unfold chunkLen
        omega
      rw [full]

theorem readFlash_ends {addr len : Nat} (hr : addr + len ≤ 65536) (h : Ready n true s) :
    Ends (Ready n true) (Failed readErrors n) (readFlash addr len s) := by
  rw [readFlash, admitTransfer_of h.linkUp h.chanValid hr, Ret.bind_ok]
  exact readChunks_ends _ _ _ _ ((h.setXfer _).setInbuf _)

theorem writeFlash_ends {addr : Nat} {buf : List Byte} (hr : addr + buf.length ≤ 65536) (h : Ready n true s) :
    Ends (Ready n true) (fun e t => Failed wireErrors n e t ∧ Unwritten (s.setXfer 0) (chunkCount buf.length) t)
      (writeFlash addr buf s) := by
  rw [writeFlash, admitTransfer_of h.linkUp h.chanValid hr, Ret.bind_ok]
  exact writeChunks_ends _ _ _ _ (by omega) (h.setXfer _)

/-! ## The cache -/

theorem fetch_ends (h : Ready n true s) :
    Ends (fun t => Ready n true t ∧ t.cached = true) (Failed readErrors n) (fetch s) := by
  refine (readFlash_ends (settings_fit s.cfg) h).bind fun _ t ht ready => ?_
  have length := readFlash_ok_length ht
  rw [memWrite, if_pos (by omega), Ret.bind_ok]
  exact .ok () ⟨(ready.setMem _).setCached, rfl⟩

/-- The errors of a settings operation: a fetch is part of it only if the mirror was empty (R22). -/
def settingsErrors (cached : Bool) : List Status := if cached then wireErrors else readErrors

theorem wireErrors_sub (c : Bool) : ∀ e ∈ wireErrors, e ∈ settingsErrors c := by
  cases c
  · exact fun e he => List.mem_cons_of_mem _ he
  · exact fun e he => he

theorem fetchIfAbsent_ends (h : Ready n true s) :
    Ends (fun t => Ready n true t ∧ t.cached = true) (Failed (settingsErrors s.cached) n) (fetchIfAbsent s) := by
  unfold fetchIfAbsent
  cases hc : s.cached with
  | true => exact .ok () ⟨h, hc⟩
  | false => exact fetch_ends h

theorem writeBack_ends (h : Ready n true s) : Ends (Ready n true) (Failed wireErrors n) (writeBack s) := by
  have fits := settings_fit s.cfg
  rw [writeBack, memRead, if_pos (by omega), Ret.bind_ok]
  exact (writeFlash_ends (by simpa using fits) h).mono (fun _ _ _ h => h) fun _ _ _ h => h.1

/-- A write back after an edit of a populated mirror. -/
theorem writeBack_cached (h : Ready n true s) (hc : s.cached = true) :
    Ends (fun t => Ready n true t ∧ t.cached = true) (Failed wireErrors n) (writeBack s) := by
  refine (writeBack_ends h).mono (fun a t ht ready => ⟨ready, ?_⟩) fun _ _ _ h => h
  have kept := cached_rel.writeBack s hc
  rwa [ht] at kept

theorem setField_ends {i : Byte} {e : FieldEntry} {x : Value} {raw : List Byte} (he : s.cfg.params.find i = some e)
    (hx : encodeValue s.cfg.params.strPad e.width e.codec x = .ok raw) (h : Ready n true s) :
    Ends (fun t => Ready n true t ∧ t.cached = true) (Failed (settingsErrors s.cached) n) (setField e x s) := by
  have width := encodeValue_length hx
  have fits := (find_range he).2
  rw [setField, hx]
  simp only [ofExcept, Ret.bind_ok]
  rw [if_neg (by simp [h.linkUp]), if_neg (by simp [h.chanValid])]
  refine (fetchIfAbsent_ends h).bind fun _ t _ ⟨ready, cached⟩ => ?_
  rw [mutate, memWrite, if_pos (by omega), Ret.bind_ok]
  have edited := ready.setMem (writeBytes t.mem e.offset raw)
  refine (writeBack_cached edited cached).mono (fun _ _ _ h => h) ?_
  exact fun _ _ _ h => h.mono (wireErrors_sub s.cached)

theorem setOwnField_ends {i : Byte} {e : FieldEntry} {x : Value} {raw : List Byte} (he : s.cfg.params.find i = some e)
    (hx : encodeValue s.cfg.params.strPad e.width e.codec x = .ok raw) (h : Ready n true s) :
    Ends (fun t => Ready n true t ∧ t.cached = true) (Failed (settingsErrors s.cached) n) (setOwnField i x s) := by
  rw [setOwnField, lookup_of he, Ret.bind_ok]
  exact setField_ends he hx h

theorem resetVersion_ends (h : Ready n true s) (hc : s.cached = true) :
    Ends (fun t => Ready n true t ∧ t.cached = true) (Failed wireErrors n) (resetVersion s) := by
  obtain ⟨-, ⟨major, hmajor, -⟩, ⟨minor, hminor, -⟩, -⟩ := own_fields_present s.cfg
  have fitsMajor := find_range hmajor
  have fitsMinor := find_range hminor
  rw [resetVersion, lookup_of hmajor, Ret.bind_ok, lookup_of hminor, Ret.bind_ok, mutate, memWrite,
    if_pos (by simp; omega), Ret.bind_ok, mutate, memWrite, if_pos (by simp; omega), Ret.bind_ok]
  exact writeBack_cached ((h.setMem _).setMem _) hc

end

end Sys2Proof.Machine
end

section
/-! SUPPORT. The eight steps of FLASH_ALL whatever the peer answers: what stands after the first `n` of them, and what is known of a step that fails. -/

namespace Sys2Proof.Machine

open Ret

/-! ## Events of one step -/

/-- `SEQ_STEP` is as it was, and every new stream event carries it (R25, log entry 13). -/
def InOneStep (s t : State) : Prop :=
  t.seqStep = s.seqStep ∧ ∃ new, t.events = s.events ++ new ∧ ∀ x ∈ new, x.step = s.seqStep

theorem InOneStep.of_same {s t : State} (h1 : t.seqStep = s.seqStep) (h2 : t.events = s.events) : InOneStep s t :=
  ⟨h1, [], by simp [h2], by simp⟩

theorem InOneStep.trans {a b c : State} (h : InOneStep a b) (g : InOneStep b c) : InOneStep a c := by
  obtain ⟨hstep, xs, hxs, all⟩ := h
  obtain ⟨gstep, ys, hys, all'⟩ := g
  refine ⟨gstep.trans hstep, xs ++ ys, by rw [hys, hxs, List.append_assoc], fun x hx => ?_⟩
  rcases List.mem_append.1 hx with hx | hx
  · exact all x hx
  · exact (all' x hx).trans hstep

theorem inOneStep_cacheRel : CacheRel InOneStep := by
  refine ⟨⟨⟨?_, fun _ _ _ => InOneStep.trans, ?_, ?_, ?_, ?_, ?_⟩, ?_, ?_⟩, ?_, ?_⟩
  case refine_5 => exact fun s bs n => ⟨rfl, [_], rfl, by simp [StreamEvent.step]⟩
  case refine_6 => exact fun s line m bs => ⟨rfl, [_], rfl, by simp [StreamEvent.step]⟩
  all_goals intros; exact .of_same rfl rfl

theorem inOneStep_channelRel : ChannelRel InOneStep :=
  ⟨inOneStep_cacheRel.toTransportRel, fun _ => .of_same rfl rfl, fun _ _ => .of_same rfl rfl⟩

/-! ## The steps so far -/

theorem mem_settingsErrors {c : Bool} {e : Status} :
    e ∈ settingsErrors c ↔ e ∈ wireErrors ∨ e = .lengthMismatch ∧ c = false := by
  cases c <;> simp [settingsErrors, readErrors, or_comm]


/-- The operation begun in `s` has come to the end of step `n` in `t`, every transaction acknowledged. -/
structure Reached (s : State) (n : Nat) (t : State) : Prop where
  host : SameHost s t
  undisturbed : t.env.abandon = []
  ack : t.res.ack = 0
  chan : 1 ≤ n → t.chanValid = true
  cached : t.cached = (decide (2 ≤ n) || s.cached)
  events : ∃ old, t.events = s.events ++ old ∧ ∀ x ∈ old, x.step.toNat ≤ n

/-- In the operation begun in `s`, the step begun in `u` failed with `e` in `t`. -/
structure StepFails (s u : State) (e : Status) (t : State) : Prop where
  opnd : t.opnd = s.opnd
  step : 1 ≤ t.seqStep.toNat ∧ t.seqStep.toNat ≤ 8
  error : e ∈ wireErrors ∨ e = .lengthMismatch ∧ t.seqStep = 2 ∧ s.cached = false
  ack : t.res.ack ≠ 0 ↔ e = .commandError
  chan : t.chanValid = true ↔ 2 ≤ t.seqStep.toNat ∧ t.seqStep.toNat ≤ 7
  before : ∃ old, u.events = s.events ++ old ∧ ∀ x ∈ old, x.step.toNat < t.seqStep.toNat
  during : ∃ new, t.events = u.events ++ new ∧ new ≠ [] ∧ ∀ x ∈ new, x.step = t.seqStep
  image : t.seqStep = 5 → Unwritten (u.setXfer 0) (chunkCount s.opnd.len.toNat) t

section
variable {s t : State} {n : Nat} {k : BitVec 4} {r : Ret Unit} (h : Reached s n t) (hk : k.toNat = n + 1)
include h

theorem Reached.ready {v : Bool} (hl : s.linkUp = true) (hv : t.chanValid = v) : Ready t.events.length v (t.setSeqStep k) :=
  ⟨h.host.linkUp.trans hl, h.undisturbed, h.ack, hv, le_refl _⟩

include hk

theorem Reached.next {v : State} (ran : Ran (t.setSeqStep k) r) (one : InOneStep (t.setSeqStep k) r.state) (hr : r.state = v)
    (ack : v.res.ack = 0) (chan : v.chanValid = true) (cached : v.cached = (decide (2 ≤ n + 1) || s.cached)) :
    Reached s (n + 1) v := by
  subst hr
  obtain ⟨old, events, all⟩ := h.events
  obtain ⟨-, new, events', all'⟩ := one
  have host : SameHost (t.setSeqStep k) r.state := sameHost_rel.of_run ran.run
  refine ⟨sameHost_rel.trans _ _ _ h.host host, undisturbed_rel.of_run ran.run h.undisturbed, ack,
    fun _ => chan, cached, old ++ new, by rw [events', State.setSeqStep_events, events, List.append_assoc], fun x hx => ?_⟩
  rcases List.mem_append.1 hx with hx | hx
  · exact (all x hx).trans (Nat.le_succ n)
  · rw [all' x hx]
    exact hk.le

theorem Reached.fails {v : State} {e : Status} {es : List Status} (hn : n ≤ 7) (ran : Ran (t.setSeqStep k) r)
    (one : InOneStep (t.setSeqStep k) r.state) (hr : r.state = v) (failed : Failed es t.events.length e v)
    (error : e ∈ wireErrors ∨ e = .lengthMismatch ∧ k = 2 ∧ s.cached = false)
    (chan : v.chanValid = true ↔ 1 ≤ n ∧ n ≤ 6)
    (image : k = 5 → Unwritten ((t.setSeqStep k).setXfer 0) (chunkCount s.opnd.len.toNat) v) :
    StepFails s (t.setSeqStep k) e v := by
  subst hr
  obtain ⟨old, events, all⟩ := h.events
  obtain ⟨step, new, events', all'⟩ := one
  have at_k : r.state.seqStep = k := step
  have opnd : r.state.opnd = t.opnd := SameHost.opnd (s := t.setSeqStep k) (sameHost_rel.of_run ran.run)
  have longer := failed.events
  refine ⟨opnd.trans h.host.opnd, by rw [at_k]; omega, by rw [at_k]; exact error, failed.ack, by rw [at_k, chan]; omega,
    ⟨old, events, fun x hx => ?_⟩, ⟨new, events', ?_, fun x hx => (all' x hx).trans step.symm⟩, by rw [at_k]; exact image⟩
  · have := all x hx
    rw [at_k]
    omega
  · rintro rfl
    rw [events'] at longer
    simp at longer

/-- A step between the select and the exit: its procedure leaves the channel alone, and its errors are those of a settings operation. -/
theorem Reached.between (hl : s.linkUp = true) (h1 : 1 ≤ n) (h6 : n ≤ 6) {p : State → Ret Unit}
    (frame : ∀ {R : State → State → Prop}, CacheRel R → ∀ u, R u (p u).state) (ran : ∀ u, Ran u (p u))
    (ends : Ready t.events.length true (t.setSeqStep k) →
      Ends (fun v => v.res.ack = 0 ∧ v.cached = true)
        (fun e v => Failed (settingsErrors t.cached) t.events.length e v ∧
          (k = 5 → Unwritten ((t.setSeqStep k).setXfer 0) (chunkCount s.opnd.len.toNat) v))
        (p (t.setSeqStep k))) :
    Ends (Reached s (n + 1)) (fun e v => ∃ u, StepFails s u e v) (seqStepDo k p t) := by
  have channel := frame sameChannel_rel (t.setSeqStep k)
  have valid : (p (t.setSeqStep k)).state.chanValid = true := channel.1.trans (h.chan h1)
  refine (ends (h.ready hl (h.chan h1))).mono (fun a v hv ⟨ack, cached⟩ => ?_) fun e v hv ⟨failed, image⟩ =>
    ⟨t.setSeqStep k, ?_⟩
  · have out : (p (t.setSeqStep k)).state = v := congrArg Ret.state hv
    rw [out] at valid
    exact h.next hk (ran _) (frame inOneStep_cacheRel _) out ack valid (by simp [cached]; omega)
  · have out : (p (t.setSeqStep k)).state = v := congrArg Ret.state hv
    rw [out] at valid
    refine h.fails hk (by omega) (ran _) (frame inOneStep_cacheRel _) out failed ?_ (iff_of_true valid ⟨h1, h6⟩) image
    refine (mem_settingsErrors.1 failed.error).imp_right fun ⟨mismatch, empty⟩ => ?_
    rw [h.cached, Bool.or_eq_false_iff, decide_eq_false_iff_not] at empty
    exact ⟨mismatch, BitVec.eq_of_toNat_eq (by rw [hk]; simp; omega), empty.2⟩

end

/-! ## Each step -/

/-- A transaction made while `CHAN_VALID` is 0, as the session operations make theirs (R200, R202). -/
theorem e4wSend_closed (cmd : Byte) (addr : Half) {out : List Byte} {n : Nat} {s : State} (h1 : 1 ≤ out.length)
    (h2 : out.length ≤ 256) (h : Ready n false s) :
    Ends (Ready (n + 1) false) (fun e t => Failed wireErrors n e t ∧ t.chanValid = false) (e4wSend cmd addr out s) := by
  refine (e4wSend_ends cmd addr h1 h2 h).mono (fun _ _ _ h => h) fun e t ht failed => ⟨failed, ?_⟩
  have channel := (sameChannel_rel.e4wSend cmd addr out s).1
  rw [ht] at channel
  exact channel.trans h.chanValid

theorem selectChannel_ends (c : Byte) {n : Nat} {v : Bool} {s : State} (h : Ready n v s) :
    Ends (Ready n true) (fun e t => Failed wireErrors n e t ∧ t.chanValid = false) (selectChannel c s) :=
  (e4wSend_closed _ _ (by simp) (by simp) h.clearChan).bind fun _ _ _ ready =>
    .ok () ((ready.setChan c).of_le (Nat.le_succ n))

theorem exitSession_ends {n : Nat} {v : Bool} {s : State} (h : Ready n v s) :
    Ends (Ready (n + 1) false) (fun e t => Failed wireErrors n e t ∧ t.chanValid = false) (exitSession s) :=
  (e4wSend_closed _ _ (by simp) (by simp) h.clearChan).bind fun _ _ _ ready => .ok () ready

/-- The sequencer's own values have an encoding in the fields it writes (R112, R113, R222). -/
theorem own_values_encoded (c : Config) :
    (∀ x ∈ [Value.int 0, .int 1], ∃ e raw, c.params.find c.params.fMarker = some e ∧
      encodeValue c.params.strPad e.width e.codec x = .ok raw) ∧
    (∀ x ∈ [Value.bytes flashFailText, .bytes notReadyText], ∃ e raw, c.params.find c.params.fName = some e ∧
      encodeValue c.params.strPad e.width e.codec x = .ok raw) := by
  obtain ⟨⟨m, hm, -⟩, -, -, ⟨d, hd, -⟩⟩ := own_fields_present c
  obtain ⟨invalid, valid, fail, notReady⟩ := own_values hm hd
  refine ⟨List.forall_mem_cons.2 ⟨⟨m, _, hm, invalid⟩, List.forall_mem_singleton.2 ⟨m, _, hm, valid⟩⟩,
    List.forall_mem_cons.2 ⟨⟨d, _, hd, fail⟩, List.forall_mem_singleton.2 ⟨d, _, hd, notReady⟩⟩⟩

/-- What FLASH_ALL leaves when the exit of step 8 has been acknowledged. -/
structure Finished (s t : State) : Prop where
  opnd : t.opnd = s.opnd
  ack : t.res.ack = 0
  chan : t.chanValid = false
  events : ∃ new, t.events = s.events ++ new ∧ new.getLast?.map StreamEvent.step = some 8

/-- The last of these events is one of step `k`. -/
theorem getLast_step {old new : List StreamEvent} {k : BitVec 4} (some : new ≠ []) (all : ∀ x ∈ new, x.step = k) :
    (old ++ new).getLast?.map StreamEvent.step = .some k := by
  rw [List.getLast?_append_of_ne_nil old some, List.getLast?_eq_some_getLast some, Option.map_some,
    all _ (List.getLast_mem some)]

namespace Reached

variable {s t : State}

/-- From step 2 on the mirror is populated (R263). -/
theorem populated {n : Nat} (h : Reached s n t) (hn : 2 ≤ n) : t.cached = true := by
  rw [h.cached, decide_eq_true hn, Bool.true_or]

variable (hl : s.linkUp = true)
include hl

/-- Step 1 (R262). -/
theorem select (h : Reached s 0 t) :
    Ends (Reached s 1) (fun e v => ∃ u, StepFails s u e v) (seqStepDo 1 (fun t => selectChannel t.opnd.chan t) t) := by
  have ran := selectChannel_ran t.opnd.chan (t.setSeqStep 1)
  have one := inOneStep_channelRel.selectChannel t.opnd.chan (t.setSeqStep 1)
  have cache := (sameCache_rel.selectChannel t.opnd.chan (t.setSeqStep 1)).1
  refine (selectChannel_ends t.opnd.chan (h.ready hl rfl)).mono (fun a v hv ready => ?_) fun e v hv ⟨failed, chan⟩ =>
    ⟨t.setSeqStep 1, ?_⟩
  · have out : (selectChannel t.opnd.chan (t.setSeqStep 1)).state = v := congrArg Ret.state hv
    rw [out] at cache
    exact h.next rfl ran one out ready.ack ready.chanValid (cache.trans h.cached)
  · exact h.fails rfl (by omega) ran one (congrArg Ret.state hv) failed (.inl failed.error) (by simp [chan]) (by simp)

/-- The steps that set one field of the sequencer's own (R263, R264, R267, R268). -/
theorem setsField {n : Nat} {k : BitVec 4} (h : Reached s n t) (hk : k.toNat = n + 1) (h1 : 1 ≤ n) (h6 : n ≤ 6)
    (h5 : k ≠ 5) (field : Params → Byte) {x : Value}
    (found : ∃ e raw, t.cfg.params.find (field t.cfg.params) = some e ∧
      encodeValue t.cfg.params.strPad e.width e.codec x = .ok raw) :
    Ends (Reached s (n + 1)) (fun e v => ∃ u, StepFails s u e v)
      (seqStepDo k (fun t => setOwnField (field t.cfg.params) x t) t) := by
  obtain ⟨e, raw, he, hx⟩ := found
  refine h.between hk hl h1 h6 (fun hR u => hR.setOwnField _ _ u) (fun u => setOwnField_ran _ _ u) fun ready => ?_
  exact (setOwnField_ends (s := t.setSeqStep k) he hx ready).mono (fun _ _ _ ⟨ready, cached⟩ => ⟨ready.ack, cached⟩)
    fun _ _ _ failed => ⟨failed, fun hk => absurd hk h5⟩

/-- Step 4 (R265). -/
theorem resetsVersion (h : Reached s 3 t) :
    Ends (Reached s 4) (fun e v => ∃ u, StepFails s u e v) (seqStepDo 4 resetVersion t) := by
  refine h.between rfl hl (by omega) (by omega) (fun hR u => hR.resetVersion u) resetVersion_ran fun ready => ?_
  exact (resetVersion_ends ready (h.populated (by omega))).mono (fun _ _ _ ⟨ready, cached⟩ => ⟨ready.ack, cached⟩)
    fun _ _ _ failed => ⟨failed.mono (wireErrors_sub _), by simp⟩

/-- Step 5 (R266). -/
theorem writesImage {fw : List Byte} (h : Reached s 4 t) (hfw : fw.length = s.opnd.len.toNat)
    (hr : s.cfg.params.fwBase.toNat + s.opnd.len.toNat ≤ 65536) :
    Ends (Reached s 5) (fun e v => ∃ u, StepFails s u e v)
      (seqStepDo 5 (fun t => writeFlash t.cfg.params.fwBase.toNat fw t) t) := by
  have cfg : t.cfg = s.cfg := h.host.cfg
  refine h.between rfl hl (by omega) (by omega) (fun hR u => hR.writeFlash _ _ u) (fun u => writeFlash_ran _ _ u)
    fun ready => ?_
  have kept := cached_rel.writeFlash t.cfg.params.fwBase.toNat fw (t.setSeqStep 5) (h.populated (by omega))
  have fits : t.cfg.params.fwBase.toNat + fw.length ≤ 65536 := by rw [cfg, hfw]; exact hr
  refine (writeFlash_ends (s := t.setSeqStep 5) fits ready).mono (fun _ v hv ready => ⟨ready.ack, ?_⟩)
    fun _ _ _ ⟨failed, image⟩ => ⟨failed.mono (wireErrors_sub _), fun _ => hfw ▸ image⟩
  have out : (writeFlash t.cfg.params.fwBase.toNat fw (t.setSeqStep 5)).state = v := congrArg Ret.state hv
  rwa [out] at kept

/-- Step 8 (R269). -/
theorem exits (h : Reached s 7 t) :
    Ends (Finished s) (fun e v => ∃ u, StepFails s u e v) (seqStepDo 8 exitSession t) := by
  have ran := exitSession_ran (t.setSeqStep 8)
  have one := inOneStep_channelRel.exitSession (t.setSeqStep 8)
  refine (exitSession_ends (h.ready hl rfl)).mono (fun a v hv ready => ?_) fun e v hv ⟨failed, chan⟩ => ⟨t.setSeqStep 8, ?_⟩
  · have out : (exitSession (t.setSeqStep 8)).state = v := congrArg Ret.state hv
    have opnd : (exitSession (t.setSeqStep 8)).state.opnd = t.opnd :=
      SameHost.opnd (s := t.setSeqStep 8) (sameHost_rel.of_run ran.run)
    obtain ⟨-, new, events, all⟩ := one
    rw [out] at events opnd
    obtain ⟨old, events', -⟩ := h.events
    have longer := ready.events
    refine ⟨opnd.trans h.host.opnd, ready.ack, ready.chanValid, old ++ new,
      by rw [events, State.setSeqStep_events, events', List.append_assoc], getLast_step ?_ all⟩
    rintro rfl
    rw [events] at longer
    simp at longer
  · exact h.fails rfl (by omega) ran one (congrArg Ret.state hv) failed (.inl failed.error) (by simp [chan]) (by simp)

end Reached

/-- The eight steps, whatever the peer answers (R260). -/
theorem flashSteps_ends {s t : State} {fw : List Byte} (hl : s.linkUp = true) (hfw : fw.length = s.opnd.len.toNat)
    (hr : s.cfg.params.fwBase.toNat + s.opnd.len.toNat ≤ 65536) (h : Reached s 0 t) :
    Ends (Finished s) (fun e v => ∃ u, StepFails s u e v) (flashSteps fw t) := by
  have marker : ∀ (t : State), ∀ x ∈ [Value.int 0, .int 1], _ := fun t => (own_values_encoded t.cfg).1
  have name : ∀ (t : State), ∀ x ∈ [Value.bytes flashFailText, .bytes notReadyText], _ := fun t =>
    (own_values_encoded t.cfg).2
  refine (h.select hl).bind fun _ t1 _ h1 => ?_
  have invalid := h1.setsField (k := 2) hl rfl (by omega) (by omega) (by decide) Params.fMarker
    (marker t1 (.int 0) (by simp))
  refine invalid.bind fun _ t2 _ h2 => ?_
  have failing := h2.setsField (k := 3) hl rfl (by omega) (by omega) (by decide) Params.fName
    (name t2 (.bytes flashFailText) (by simp))
  refine failing.bind fun _ t3 _ h3 => ?_
  refine (h3.resetsVersion hl).bind fun _ t4 _ h4 => ?_
  refine (h4.writesImage hl hfw hr).bind fun _ t5 _ h5 => ?_
  have notReady := h5.setsField (k := 6) hl rfl (by omega) (by omega) (by decide) Params.fName
    (name t5 (.bytes notReadyText) (by simp))
  refine notReady.bind fun _ t6 _ h6 => ?_
  have valid := h6.setsField (k := 7) hl rfl (by omega) (by omega) (by decide) Params.fMarker
    (marker t6 (.int 1) (by simp))
  refine valid.bind fun _ t7 _ h7 => ?_
  exact h7.exits hl

end Sys2Proof.Machine
end

section
/-! SUPPORT. What FLASH_ALL reports of its steps (R260, R293, R295). -/

namespace Sys2Proof.Machine

open Ret

theorem execFlashAll_ok {s t : State} (h : flashAll s.begin = .ok () t) :
    exec .flashAll s = .next (t.endOp { ack := t.res.ack, xfer := t.opnd.len } []) := by
  dsimp only [exec, execFlashAll]
  exact runOp_ok h

/-- An error inside a step is reported with the step and its cause (R293). -/
theorem execFlashAll_raise {s t : State} {e : Status} (h : flashAll s.begin = raise e t) (hstep : t.seqStep ≠ 0) :
    exec .flashAll s = .next (t.stepFailed t.stepStatus (statusCode e)) := by
  dsimp only [exec, execFlashAll]
  exact (runOp_raise h).trans (congrArg _ (raiseEntry_wrapped hstep e))

/-- Past the tests A to C of R260 only the steps are left. -/
theorem flashAll_admitted {s : State} (hl : s.linkUp = true)
    (hr : s.cfg.params.fwBase.toNat + s.opnd.len.toNat ≤ 65536) (hfw : s.fw.length = s.opnd.len.toNat) :
    flashAll s = flashSteps s.fw s := by
  rw [flashAll, if_neg (by simp [hl]), if_neg (by omega), fwBytes, if_pos hfw, Ret.bind_ok]

theorem Reached.begin {s : State} (hab : s.env.abandon = []) : Reached s 0 s.begin :=
  ⟨⟨rfl, rfl, rfl, rfl, rfl, rfl, rfl⟩, hab, rfl, fun h => absurd h (by omega), rfl, [], by simp [State.begin], by simp⟩

/-! ## The report of a failed step -/

/-- The error under a wrapping: one of a transaction, or a payload of another length in the fetch of step 2 (R293). -/
theorem cause_of_error {e : Status} {p : Prop} (h : e ∈ wireErrors ∨ e = .lengthMismatch ∧ p) :
    statusCode e ∈ [(0x11 : Byte), 0x12, 0x13, 0x14, 0x20] ∧ (statusCode e = 0x11 → p) ∧
      (statusCode e = 0x20 ↔ e = .commandError) := by
  rcases h with h | ⟨rfl, hp⟩
  · have each : ∀ x ∈ wireErrors, statusCode x ∈ [(0x11 : Byte), 0x12, 0x13, 0x14, 0x20] ∧ statusCode x ≠ 0x11 ∧
        (statusCode x = 0x20 ↔ x = .commandError) := by decide
    obtain ⟨code, other, ack⟩ := each e h
    exact ⟨code, fun h => absurd h other, ack⟩
  · exact ⟨by decide, fun _ => hp, by decide⟩

section
variable {s u t : State} {e : Status} (h : StepFails s u e t)
include h

/-- The stream events of the run: those of earlier steps, then those of the step that failed. -/
theorem StepFails.events : ∃ old new, t.events = s.events ++ (old ++ new) ∧ t.events = u.events ++ new ∧ new ≠ [] ∧
    (∀ x ∈ old, x.step ≠ t.seqStep) ∧ ∀ x ∈ new, x.step = t.seqStep := by
  obtain ⟨old, before, less⟩ := h.before
  obtain ⟨new, during, some, all⟩ := h.during
  refine ⟨old, new, by rw [during, before, List.append_assoc], during, some, fun x hx same => ?_, all⟩
  have := less x hx
  rw [same] at this
  exact lt_irrefl _ this

/-- The count of a failed step 5 is that of the chunks acknowledged in it (R194, R266). -/
theorem StepFails.chunks (h5 : t.seqStep = 5) (hlen : s.opnd.len.toNat ≤ 65536) {old new : List StreamEvent}
    (during : t.events = u.events ++ new) (before : ∀ x ∈ old, x.step ≠ t.seqStep) (all : ∀ x ∈ new, x.step = t.seqStep) :
    t.res.xfer.toNat < s.opnd.len.toNat ∧ ∃ (ts : List (List StreamEvent)) (last : List StreamEvent),
      (old ++ new).filter (fun x => x.step == 5) = ts.flatten ++ last ∧ last.length ≤ 3 ∧ (∀ es ∈ ts, acknowledged es) ∧
      ¬acknowledged last ∧ t.res.xfer.toNat = 256 * ts.length := by
  obtain ⟨ts, last, events, few, made, unmade, less, xfer⟩ := h.image h5
  have same : new = ts.flatten ++ last := List.append_cancel_left (during.symm.trans events)
  have count : t.res.xfer.toNat = 256 * ts.length := by
    rw [xfer, State.setXfer_res]
    unfold chunkCount at less
    simp
    omega
  have none : old.filter (fun x => x.step == 5) = [] :=
    List.filter_eq_nil_iff.2 fun x hx => by simpa [h5] using before x hx
  have whole : new.filter (fun x => x.step == 5) = new :=
    List.filter_eq_self.2 fun x hx => by simpa [h5] using all x hx
  refine ⟨?_, ts, last, by rw [List.filter_append, none, whole, List.nil_append, same], few, made, unmade, count⟩
  unfold chunkCount at less
  omega

theorem StepFails.flashXfer_after (h5 : 5 < t.seqStep.toNat) : t.flashXfer = s.opnd.len := by
  rw [State.flashXfer, if_neg (by omega), if_neg (by omega), h.opnd]

end

/-- Settles O58: the run ends as `flashSteps_ends` says, and each end is read off. -/
theorem flashAllReports : Obligations.FlashAllReports := by
  intro s hl hr hfw hab
  have steps := flashSteps_ends hl hfw hr (Reached.begin hab)
  have admitted : flashAll s.begin = flashSteps s.fw s.begin := flashAll_admitted (s := s.begin) hl hr hfw
  rw [← admitted] at steps
  generalize hrun : flashAll s.begin = r at steps
  cases steps with
  | ok a done =>
    obtain ⟨new, events, last⟩ := done.events
    exact ⟨_, new, execFlashAll_ok hrun, events, rfl, last, .inl ⟨rfl, rfl, rfl, done.ack,
      congrArg Operands.len done.opnd, done.chan⟩⟩
  | @raised e t failed =>
    obtain ⟨u, h⟩ := failed
    obtain ⟨old, new, events, during, some, before, all⟩ := h.events
    obtain ⟨code, mismatch, command⟩ := cause_of_error h.error
    have inside : t.seqStep ≠ 0 := fun h0 => by simpa [h0] using h.step.1
    have status : statusCode t.stepStatus = if t.seqStep = 1 then 0x31 else 0x30 := apply_ite statusCode _ _ _
    have unequal : statusCode t.stepStatus ≠ 0 := by rw [status]; split <;> decide
    refine ⟨_, old ++ new, execFlashAll_raise hrun inside, events, rfl, ?_, .inr ⟨h.step.1, h.step.2, status, code, mismatch,
      h.ack.trans command.symm, fun h5 => if_pos h5, fun h5 => ?_, h.flashXfer_after, h.chan⟩⟩
    · exact (getLast_step some all).trans (congrArg _ (if_neg unequal).symm)
    · have step5 : t.seqStep = 5 := h5
      have at5 : t.flashXfer = t.res.xfer := by simp [State.flashXfer, step5]
      show t.flashXfer.toNat < _ ∧ ∃ ts last, _ ∧ _ ∧ _ ∧ _ ∧ t.flashXfer.toNat = _
      rw [at5]
      exact h.chunks step5 (by omega) during before all

end Sys2Proof.Machine
end

section
/-! SUPPORT. Chunked transfers: how the chunks join, what a transfer answers when every chunk is acknowledged, and what it is refused for before the first (R68, R69, R190, R194). -/

namespace Sys2Proof.Machine

open Ret

/-! ## Chunks -/

/-- The first `k` chunks join to the first `256 * k` bytes. -/
theorem chunkBytes_flatMap (buf : List Byte) (k : Nat) :
    (List.range k).flatMap (chunkBytes buf) = buf.take (256 * k) := by
  induction k with
  | zero => simp
  | succ k ih =>
    rw [List.range_succ, List.flatMap_append, ih, Nat.mul_succ, List.take_add]
    simp [chunkBytes]

/-- The chunks of a transfer are as many as its bytes need. -/
theorem le_chunkCount (len : Nat) : len ≤ 256 * chunkCount len := by
  unfold chunkCount
  omega

/-- The address of a chunk within the address space (R69). -/
theorem chunkAddr_toNat {addr len i : Nat} (hr : addr + len ≤ 65536) (hi : i < chunkCount len) :
    (chunkAddr addr i).toNat = addr + 256 * i := by
  unfold chunkCount at hi
  exact Nat.mod_eq_of_lt (by omega)

/-- Only the last chunk is short of 256 bytes. -/
theorem last_of_chunkLen_lt {len i : Nat} (hi : i < chunkCount len) (short : chunkLen len i < 256) :
    i + 1 = chunkCount len := by
  unfold chunkLen at short
  unfold chunkCount at hi ⊢
  omega

/-- Settles O37: the chunks are the segments of 256 bytes that `le_chunkCount` says are enough. -/
theorem chunkArithmetic : Obligations.ChunkArithmetic := by
  refine ⟨fun addr buf hr => ⟨?_, fun i hi => ?_⟩, rfl, by decide⟩
  · rw [chunkBytes_flatMap, List.take_of_length_le (le_chunkCount _)]
  · obtain ⟨some, most⟩ := chunkLen_pos hi
    exact ⟨some, most, last_of_chunkLen_lt hi, chunkBytes_length buf i, chunkAddr_toNat hr hi⟩

/-! ## Transfers with every chunk acknowledged -/

theorem execReadFlash_ok {s t : State} (h : readFlash s.opnd.addr.toNat s.opnd.len.toNat s.begin = .ok () t) :
    exec .readFlash s = .next (t.endOp { ack := t.res.ack, xfer := t.res.xfer, len := t.opnd.len } t.inbuf) := by
  dsimp only [exec, execReadFlash]
  exact runOp_ok h

theorem execWriteFlash_ok {s t : State} (h : writeFlash s.opnd.addr.toNat s.outBytes s.begin = .ok () t) :
    exec .writeFlash s = .next (t.endOp { ack := t.res.ack, xfer := t.res.xfer } []) := by
  dsimp only [exec, execWriteFlash]
  exact runOp_ok h

/-- What a transfer leaves when it ends after `k` acknowledged transactions, the mirror and the channel as they were. -/
theorem Running.transferred {s t : State} {k : Nat} {es : List StreamEvent} (h : Running s t k es (readByte s.mem))
    (cached : t.cached = s.cached) (channel : SameChannel s t) (r : Results) (bs : List Byte) :
    (t.endOp r bs).events = s.events ++ es ∧ (t.endOp r bs).env = s.env.afterAnswers k ∧ SameHost s (t.endOp r bs) ∧
      SameCache s (t.endOp r bs) ∧ SameChannel s (t.endOp r bs) :=
  ⟨h.events, h.env, ⟨h.cfg, h.timeout, h.opnd, h.outbuf, h.linkUp, h.fw, h.inputs⟩, ⟨cached, h.mem⟩, channel⟩

/-- Settles O38: `readFlash_answered` gives the state the chunks leave, and the end of the operation is read off it. -/
theorem readFlashCompletes : Obligations.ReadFlashCompletes := by
  intro s rs rest hl hv hr hk hp ha
  obtain ⟨tx, rx, run, -⟩ := readFlash_answered (s := s.begin) rfl hl hv hr hk hp ha
  have length : (rs.flatMap Reply.payload).length = s.opnd.len.toNat := readFlash_ok_length run
  have xfer : BitVec.ofNat 32 (rs.flatMap Reply.payload).length = s.opnd.len := by simp [length]
  rw [xfer, ← hk] at run
  have running := (((Running.begin s).wire tx rx rs.length (readEvents 0 s.cfg.params s.timeout s.opnd.addr.toNat
    s.opnd.len.toNat rs)).inbuf (rs.flatMap Reply.payload)).xfer s.opnd.len
  rw [Nat.zero_add, List.nil_append] at running
  exact ⟨_, execReadFlash_ok run, ⟨rfl, rfl, rfl⟩, rfl, rfl, length, running.transferred rfl ⟨rfl, rfl⟩ _ _⟩

/-- Settles O39: the same for `writeFlash_answered`. -/
theorem writeFlashCompletes : Obligations.WriteFlashCompletes := by
  intro s rs rest hl hv hr hk ha
  have length : s.outBytes.length = s.opnd.len.toNat := s.outBytes_length
  rw [← length] at hr hk
  obtain ⟨tx, rx, run, -⟩ := writeFlash_answered (s := s.begin) rfl hl hv hr hk ha
  have xfer : BitVec.ofNat 32 s.outBytes.length = s.opnd.len := by simp
  rw [xfer, ← hk] at run
  have running := ((Running.begin s).wire tx rx rs.length (writeEvents 0 s.cfg.params s.timeout s.opnd.addr.toNat
    s.outBytes rs)).xfer s.opnd.len
  rw [Nat.zero_add, List.nil_append] at running
  exact ⟨_, execWriteFlash_ok run, ⟨rfl, rfl, rfl⟩, rfl, rfl, running.transferred rfl ⟨rfl, rfl⟩ _ _⟩

/-! ## Admission -/

section
variable {addr len : Nat} {s : State} (hl : s.linkUp = true)
include hl

theorem admitTransfer_noChannel (hv : s.chanValid = false) : admitTransfer addr len s = raise .noChannel s := by
  rw [admitTransfer, if_neg (by simp [hl]), if_pos hv]

theorem admitTransfer_addressRange (hv : s.chanValid = true) (hr : 65536 < addr + len) :
    admitTransfer addr len s = raise .addressRange s := by
  rw [admitTransfer, if_neg (by simp [hl]), if_neg (by simp [hv]), if_pos hr]

end

/-- A transfer that is not admitted has not begun. -/
theorem exec_transfer_refused {i : Instr} {s : State} {e : Status} (hi : i = .readFlash ∨ i = .writeFlash)
    (h : admitTransfer s.opnd.addr.toNat s.opnd.len.toNat s.begin = raise e s.begin) :
    exec i s = .next (s.endOp { status := statusCode e } []) := by
  rcases hi with rfl | rfl
  · refine runOp_refused ?_
    show readFlash s.opnd.addr.toNat s.opnd.len.toNat s.begin = _
    rw [readFlash, h, raise_bind]
  · refine runOp_refused ?_
    show writeFlash s.opnd.addr.toNat s.outBytes s.begin = _
    rw [writeFlash, State.outBytes_length, h, raise_bind]

/-- A transfer of no bytes has no chunk (R68, R69). -/
theorem exec_transfer_empty {i : Instr} {s : State} (hi : i = .readFlash ∨ i = .writeFlash) (hl : s.linkUp = true)
    (hv : s.chanValid = true) (hlen : s.opnd.len = 0) : exec i s = .next (s.endOp {} []) := by
  have zero : s.opnd.len.toNat = 0 := by simp [hlen]
  have admitted : admitTransfer s.opnd.addr.toNat 0 s.begin = .ok () s.begin :=
    admitTransfer_of (s := s.begin) hl hv (by omega)
  rcases hi with rfl | rfl
  · have run : readFlash s.opnd.addr.toNat s.opnd.len.toNat s.begin = .ok () ((s.begin.setXfer 0).setInbuf []) := by
      rw [zero, readFlash, admitted, Ret.bind_ok]
      rfl
    refine (execReadFlash_ok run).trans ?_
    show Host.Outcome.next (s.endOp { len := s.opnd.len } []) = _
    rw [hlen]
  · have run : writeFlash s.opnd.addr.toNat s.outBytes s.begin = .ok () (s.begin.setXfer 0) := by
      rw [writeFlash, State.outBytes_length, zero, admitted, Ret.bind_ok]
      rfl
    exact execWriteFlash_ok run

/-- Settles O40: each test of `admitTransfer` in its turn, a transfer without a chunk, and the range test of FLASH_ALL. -/
theorem transferAdmission : Obligations.TransferAdmission := by
  refine fun s hl => ⟨fun i hi => ⟨fun hv => ?_, fun hv hr => ?_, fun hv hlen => ?_⟩, fun hr => ?_⟩
  · exact exec_transfer_refused hi (admitTransfer_noChannel (s := s.begin) hl hv)
  · exact exec_transfer_refused hi (admitTransfer_addressRange (s := s.begin) hl hv hr)
  · exact exec_transfer_empty hi hl hv hlen
  · refine runOp_refused (e := .addressRange) ?_
    show flashAll s.begin = _
    rw [flashAll, if_neg (by simp [State.begin, hl])]
    exact if_pos hr

end Sys2Proof.Machine
end

section
/-! SUPPORT. What a procedure sends whatever the peer answers and wherever it is abandoned: acknowledged transactions while it goes on, and writes that satisfy a property of their step and bytes however it ends. -/

namespace Sys2Proof.Machine

open Ret

/-! ## Ways a procedure can go -/

/-- A procedure that ends in a state of `ok`, or stops, for whatever reason, in a state of `stopped`. -/
inductive Leads {α : Type} (ok stopped : State → Prop) : Ret α → Prop where
  | ok (a : α) {t : State} (h : ok t) : Leads ok stopped (.ok a t)
  | stop (e : Stop) {t : State} (h : stopped t) : Leads ok stopped (.stop e t)

section
variable {α β : Type} {ok ok' stopped stopped' : State → Prop} {r : Ret α}

theorem Leads.mono (h : Leads ok stopped r) (hok : ∀ a t, r = .ok a t → ok t → ok' t)
    (hstopped : ∀ t, stopped t → stopped' t) : Leads ok' stopped' r := by
  cases h with
  | ok a h => exact .ok a (hok a _ rfl h)
  | stop e h => exact .stop e (hstopped _ h)

theorem Leads.bind {f : α → State → Ret β} (h : Leads ok stopped r)
    (next : ∀ a t, r = .ok a t → ok t → Leads ok' stopped (f a t)) : Leads ok' stopped (r.bind f) := by
  cases h with
  | ok a h => exact next a _ rfl h
  | stop e h => exact .stop e h

/-- What holds of every state a procedure stops in, and of the state after its second part, holds of the state it leaves. -/
theorem Leads.bind_state {f : α → State → Ret β} (h : Leads ok stopped r)
    (next : ∀ a t, r = .ok a t → ok t → stopped (f a t).state) : stopped (r.bind f).state := by
  cases h with
  | ok a h => exact next a _ rfl h
  | stop e h => exact h

end

/-! ## Stream events -/

/-- Every write among these events has a step and bytes that satisfy `P`. -/
def Sends (P : BitVec 4 → List Byte → Prop) (es : List StreamEvent) : Prop :=
  ∀ k bs w, StreamEvent.write k bs w ∈ es → P k bs

/-- The events of `t` are those of `s` and of `n` transactions after them, each acknowledged; their writes satisfy `P`. -/
def Acked (P : BitVec 4 → List Byte → Prop) (n : Nat) (s t : State) : Prop :=
  ∃ ts : List (List StreamEvent), t.events = s.events ++ ts.flatten ∧ (∀ es ∈ ts, acknowledged es) ∧ ts.length = n ∧
    Sends P ts.flatten

/-- The events of `t` are those of `s` and others after them, whose writes satisfy `P`. -/
def Issued (P : BitVec 4 → List Byte → Prop) (s t : State) : Prop :=
  ∃ new, t.events = s.events ++ new ∧ Sends P new

/-- The events of `t` are those of `s` and of one transaction at most, which wrote `bs` first and then only read. -/
def Posted (s t : State) (bs : List Byte) : Prop :=
  t.events = s.events ∨ ∃ w reads, t.events = s.events ++ .write s.seqStep bs w :: reads ∧
    ∀ x ∈ reads, ∃ k m tt b, x = StreamEvent.read k m tt b

section
variable {P Q : BitVec 4 → List Byte → Prop} {es fs : List StreamEvent} {s t u : State} {m n : Nat}

theorem Sends.nil : Sends P [] := by simp [Sends]

theorem Sends.append (h : Sends P es) (g : Sends P fs) : Sends P (es ++ fs) := fun k bs w hx =>
  (List.mem_append.1 hx).elim (h k bs w) (g k bs w)

theorem Sends.mono (h : Sends P es) (hpq : ∀ k bs, P k bs → Q k bs) : Sends Q es := fun k bs w hx =>
  hpq k bs (h k bs w hx)

theorem Sends.of_reads (h : ∀ x ∈ es, ∃ k m tt b, x = StreamEvent.read k m tt b) : Sends P es := by
  intro k bs w hx
  obtain ⟨_, _, _, _, read⟩ := h _ hx
  cases read

theorem Sends.cons {k : BitVec 4} {bs : List Byte} {w : Nat} (h : P k bs) (g : Sends P es) :
    Sends P (.write k bs w :: es) := by
  intro k' bs' w' hx
  rcases List.mem_cons.1 hx with same | hx
  · cases same; exact h
  · exact g k' bs' w' hx

theorem Issued.of_same (h : t.events = s.events) : Issued P s t := ⟨[], by simp [h], .nil⟩

theorem Acked.of_same (h : t.events = s.events) : Acked P 0 s t := ⟨[], by simp [h], by simp, rfl, .nil⟩

theorem Acked.issued (h : Acked P n s t) : Issued P s t := by
  obtain ⟨ts, events, -, -, sends⟩ := h
  exact ⟨_, events, sends⟩

theorem Acked.trans (h : Acked P m s t) (g : Acked P n t u) : Acked P (m + n) s u := by
  obtain ⟨ts, events, made, rfl, sends⟩ := h
  obtain ⟨us, events', made', rfl, sends'⟩ := g
  refine ⟨ts ++ us, by rw [events', events, List.append_assoc, List.flatten_append], fun es hes => ?_, by simp, ?_⟩
  · exact (List.mem_append.1 hes).elim (made es) (made' es)
  · rw [List.flatten_append]
    exact sends.append sends'

theorem Issued.trans (h : Issued P s t) (g : Issued P t u) : Issued P s u := by
  obtain ⟨new, events, sends⟩ := h
  obtain ⟨new', events', sends'⟩ := g
  exact ⟨new ++ new', by rw [events', events, List.append_assoc], sends.append sends'⟩

theorem Posted.after {bs : List Byte} (h : Posted t u bs) (events : t.events = s.events) (step : t.seqStep = s.seqStep) :
    Posted s u bs := by
  unfold Posted
  rw [← events, ← step]
  exact h

theorem Posted.issued {bs : List Byte} (h : Posted s t bs) (hP : P s.seqStep bs) : Issued P s t := by
  rcases h with same | ⟨w, reads, events, only⟩
  · exact .of_same same
  · exact ⟨_, events, .cons hP (.of_reads only)⟩

end

/-- The procedure makes `n` acknowledged transactions if it ends `OK`; what it sends satisfies `P` however it ends. -/
abbrev Transacting {α : Type} (P : BitVec 4 → List Byte → Prop) (n : Nat) (s : State) (r : Ret α) : Prop :=
  Leads (Acked P n s) (Issued P s) r

section
variable {α β : Type} {P : BitVec 4 → List Byte → Prop} {m n : Nat} {s t : State} {r : Ret α}

theorem Transacting.bind {f : α → State → Ret β} (h : Transacting P m s r)
    (next : ∀ a t, r = .ok a t → Transacting P n t (f a t)) : Transacting P (m + n) s (r.bind f) :=
  Leads.bind h fun a t ht made => (next a t ht).mono (fun _ _ _ more => made.trans more) fun _ more => made.issued.trans more

/-- An update that issues no event may come first. -/
theorem Transacting.after (h : Transacting P n t r) (same : t.events = s.events) : Transacting P n s r := by
  refine Leads.mono h (fun _ _ _ made => ?_) fun _ issued => (Issued.of_same same).trans issued
  rw [← Nat.zero_add n]
  exact (Acked.of_same same).trans made

/-! ## One transaction -/

theorem e4wPut_posted (cmd : Byte) (addr : Half) (out : List Byte) (s : State) :
    Posted s (e4wPut cmd addr out s).state (e4wRequest s.cfg.params cmd addr out) := by
  unfold e4wPut
  split
  · exact .inl rfl
  split
  · exact .inl rfl
  split
  · exact .inl rfl
  unfold streamWrite
  split
  · exact .inl rfl
  · rw [Ret.bind_ok]
    split <;> exact .inr ⟨_, [], rfl, by simp⟩

theorem e4wSend_posted (cmd : Byte) (addr : Half) (out : List Byte) (s : State) :
    Posted s (e4wSend cmd addr out s).state (e4wRequest s.cfg.params cmd addr out) := by
  rw [e4wSend]
  cases put : e4wPut cmd addr out s with
  | stop e t =>
    have posted := e4wPut_posted cmd addr out s
    rwa [put] at posted
  | ok a t =>
    obtain ⟨-, -, -, -, rfl⟩ := e4wPut_ok put
    rw [Ret.bind_ok]
    obtain ⟨-, -, reads, events, only⟩ := e4wReply_onlyReads
      (((s.setTx (e4wRequest s.cfg.params cmd addr out)).setEnv s.env.afterWrite).addEvent
        (.write s.seqStep (e4wRequest s.cfg.params cmd addr out) (e4wRequest s.cfg.params cmd addr out).length))
    refine .inr ⟨_, reads, events.trans (List.append_assoc _ _ _), fun x hx => ?_⟩
    obtain ⟨m, b, read⟩ := only x hx
    exact ⟨_, m, _, b, read⟩

theorem e4wSend_transacting {cmd : Byte} {addr : Half} {out : List Byte}
    (hP : P s.seqStep (e4wRequest s.cfg.params cmd addr out)) : Transacting P 1 s (e4wSend cmd addr out s) := by
  have posted := e4wSend_posted cmd addr out s
  cases sent : e4wSend cmd addr out s with
  | ok p t =>
    obtain ⟨-, -, -, -, hd, b, events, made, -⟩ := e4wSend_ok sent
    refine .ok p ⟨[_], by simpa using events, by simpa using made, rfl, ?_⟩
    rw [List.flatten_singleton]
    exact .cons hP (.of_reads (by simp))
  | stop e t =>
    rw [sent] at posted
    exact .stop e (posted.issued hP)

theorem deviceRead_transacting {addr : Half} {k : Nat}
    (hP : P s.seqStep (e4wRequest s.cfg.params s.cfg.params.cmdDeviceRead addr [lenEnc k])) :
    Transacting P 1 s (deviceRead addr k s) := by
  refine (e4wSend_transacting hP).bind (n := 0) fun p t _ => ?_
  split
  · exact .stop _ (.of_same rfl)
  · exact .ok p (.of_same rfl)

/-! ## Transfers -/

theorem admitTransfer_transacting (addr len : Nat) (s : State) : Transacting P 0 s (admitTransfer addr len s) := by
  unfold admitTransfer
  split
  · exact .stop _ (.of_same rfl)
  split
  · exact .stop _ (.of_same rfl)
  split
  · exact .stop _ (.of_same rfl)
  · exact .ok () (.of_same rfl)

theorem admitTransfer_state (addr len : Nat) (s : State) : (admitTransfer addr len s).state = s := by
  unfold admitTransfer
  split
  · rfl
  split
  · rfl
  split <;> rfl

theorem readChunks_transacting (addr len k i : Nat)
    (hP : ∀ a n, P s.seqStep (e4wRequest s.cfg.params s.cfg.params.cmdDeviceRead a [lenEnc n])) :
    Transacting P k s (readChunks addr len k i s) := by
  induction k generalizing i s with
  | zero => exact .ok () (.of_same rfl)
  | succ k ih =>
    have step := (transactionRel.deviceRead (chunkAddr addr i) (chunkLen len i) s).2.2.1
    have cfg := (portsRel.deviceRead (chunkAddr addr i) (chunkLen len i) s).2
    rw [readChunks, Nat.add_comm k 1]
    refine (deviceRead_transacting (hP _ _)).bind fun p t ht => ?_
    rw [ht] at step cfg
    refine (ih (s := t.tookChunk p) (i + 1) fun a n => ?_).after rfl
    rw [show (t.tookChunk p).seqStep = s.seqStep from step, show (t.tookChunk p).cfg = s.cfg from cfg]
    exact hP a n

theorem readFlash_transacting (addr len : Nat)
    (hP : ∀ a n, P s.seqStep (e4wRequest s.cfg.params s.cfg.params.cmdDeviceRead a [lenEnc n])) :
    Transacting P (chunkCount len) s (readFlash addr len s) := by
  rw [← Nat.zero_add (chunkCount len)]
  refine (admitTransfer_transacting addr len s).bind fun _ t ht => ?_
  obtain ⟨rfl, -⟩ := admitTransfer_ok ht
  exact (readChunks_transacting (s := (t.setXfer 0).setInbuf []) addr len _ 0 hP).after rfl

theorem writeChunks_transacting (addr : Nat) (buf : List Byte) (k i : Nat) (hi : i + k ≤ chunkCount buf.length)
    (hP : ∀ a j, j < chunkCount buf.length →
      P s.seqStep (e4wRequest s.cfg.params s.cfg.params.cmdDeviceWrite a (chunkBytes buf j))) :
    Transacting P k s (writeChunks addr buf k i s) := by
  induction k generalizing i s with
  | zero => exact .ok () (.of_same rfl)
  | succ k ih =>
    have step := (transactionRel.deviceWrite (chunkAddr addr i) (chunkBytes buf i) s).2.2.1
    have cfg := (portsRel.deviceWrite (chunkAddr addr i) (chunkBytes buf i) s).2
    rw [writeChunks, Nat.add_comm k 1]
    refine (e4wSend_transacting (hP _ _ (by omega))).bind fun p t ht => ?_
    rw [deviceWrite, ht, Ret.state_ok] at step cfg
    refine (ih (s := t.setXfer _) (i + 1) (by omega) fun a j hj => ?_).after rfl
    rw [State.setXfer_seqStep, State.setXfer_cfg, step, cfg]
    exact hP a j hj

theorem writeFlash_transacting (addr : Nat) (buf : List Byte)
    (hP : ∀ a j, j < chunkCount buf.length →
      P s.seqStep (e4wRequest s.cfg.params s.cfg.params.cmdDeviceWrite a (chunkBytes buf j))) :
    Transacting P (chunkCount buf.length) s (writeFlash addr buf s) := by
  rw [← Nat.zero_add (chunkCount buf.length)]
  refine (admitTransfer_transacting addr buf.length s).bind fun _ t ht => ?_
  obtain ⟨rfl, -⟩ := admitTransfer_ok ht
  exact (writeChunks_transacting (s := t.setXfer 0) addr buf _ 0 (by omega) hP).after rfl

/-! ## The cache -/

/-- The request of a write back: the whole mirror in one device-write of the settings page (R70, R233). -/
def pageRequest (s : State) : List Byte :=
  e4wRequest s.cfg.params s.cfg.params.cmdDeviceWrite s.cfg.params.settingsBase (readBytes s.mem 0 256)

/-- A write back is one transaction, once it is admitted. -/
theorem writeBack_eq (s : State) :
    writeBack s = (admitTransfer s.cfg.params.settingsBase.toNat 256 s).bind fun _ s =>
      (deviceWrite s.cfg.params.settingsBase (readBytes s.mem 0 256) (s.setXfer 0)).bind fun _ t =>
        .ok () (t.setXfer (t.res.xfer + 256)) := by
  have whole : chunkBytes (readBytes s.mem 0 256) 0 = readBytes s.mem 0 256 := by
    simp [chunkBytes, List.take_of_length_le]
  have one : chunkCount 256 = 1 := rfl
  have count : BitVec.ofNat 32 (chunkLen 256 0) = 256 := rfl
  rw [writeBack, memRead, if_pos (by omega), Ret.bind_ok, writeFlash, readBytes_length]
  cases admitted : admitTransfer s.cfg.params.settingsBase.toNat 256 s with
  | stop e t => rw [Ret.bind_stop, Ret.bind_stop]
  | ok a t =>
    obtain ⟨rfl, -⟩ := admitTransfer_ok admitted
    simp only [Ret.bind_ok, one, writeChunks, chunkAddr_zero, whole, readBytes_length, count]

theorem writeBack_transacting (hP : P s.seqStep (pageRequest s)) : Transacting P 1 s (writeBack s) := by
  rw [writeBack_eq]
  refine (admitTransfer_transacting _ _ s).bind (m := 0) (n := 1) fun _ t ht => ?_
  obtain ⟨rfl, -⟩ := admitTransfer_ok ht
  have sent : Transacting P 1 (t.setXfer 0)
      (deviceWrite t.cfg.params.settingsBase (readBytes t.mem 0 256) (t.setXfer 0)) := e4wSend_transacting hP
  refine Transacting.after (t := t.setXfer 0) ?_ rfl
  exact sent.bind (n := 0) fun _ u _ => .ok () (.of_same rfl)

theorem writeBack_posted (s : State) : Posted s (writeBack s).state (pageRequest s) := by
  rw [writeBack_eq]
  have admission := admitTransfer_state s.cfg.params.settingsBase.toNat 256 s
  cases admitted : admitTransfer s.cfg.params.settingsBase.toNat 256 s with
  | stop e t =>
    rw [admitted] at admission
    exact .inl (congrArg State.events admission)
  | ok a t =>
    obtain ⟨rfl, -⟩ := admitTransfer_ok admitted
    have posted : Posted t (deviceWrite t.cfg.params.settingsBase (readBytes t.mem 0 256) (t.setXfer 0)).state
        (pageRequest t) := e4wSend_posted _ _ _ (t.setXfer 0)
    rw [Ret.bind_ok]
    cases sent : deviceWrite t.cfg.params.settingsBase (readBytes t.mem 0 256) (t.setXfer 0) with
    | ok p u => rw [sent] at posted; exact posted
    | stop e u => rw [sent] at posted; exact posted

/-- How many transactions a fetch-if-absent makes (R22). -/
def fetchCount (s : State) : Nat := if s.cached then 0 else 1

theorem fetchIfAbsent_transacting
    (hP : ∀ a n, P s.seqStep (e4wRequest s.cfg.params s.cfg.params.cmdDeviceRead a [lenEnc n])) :
    Transacting P (fetchCount s) s (fetchIfAbsent s) := by
  unfold fetchIfAbsent fetchCount
  split
  · exact .ok () (.of_same rfl)
  · refine (readFlash_transacting _ 256 hP).bind (m := 1) (n := 0) fun _ t ht => ?_
    have length := readFlash_ok_length ht
    rw [memWrite, if_pos (by omega), Ret.bind_ok]
    exact .ok () (.of_same rfl)

/-- After a fetch-if-absent the mirror is populated, and where it was before it is as it was (R22). -/
theorem fetchIfAbsent_ok (h : fetchIfAbsent s = .ok () t) : t.cached = true ∧ (s.cached = true → t = s) := by
  unfold fetchIfAbsent at h
  split at h
  · rename_i cached
    cases h
    exact ⟨cached, fun _ => rfl⟩
  · rename_i empty
    obtain ⟨_, u, -, h⟩ := Ret.bind_eq_ok.1 h
    obtain ⟨_, v, -, h⟩ := Ret.bind_eq_ok.1 h
    cases h
    exact ⟨rfl, fun cached => absurd cached empty⟩

/-- The edit of a field of the table raises before its first line, or fetches, writes the field's bytes and writes back (R232). -/
theorem setField_cases {i : Byte} {e : FieldEntry} {x : Value} {raw : List Byte} (he : s.cfg.params.find i = some e)
    (hx : encodeValue s.cfg.params.strPad e.width e.codec x = .ok raw) :
    (∃ y, setField e x s = raise y s) ∨
      setField e x s = (fetchIfAbsent s).bind fun _ t => writeBack (t.setMem (writeBytes t.mem e.offset raw)) := by
  have width := encodeValue_length hx
  have fits := (find_range he).2
  rw [setField, hx]
  simp only [ofExcept, Ret.bind_ok]
  split
  · exact .inl ⟨_, rfl⟩
  split
  · exact .inl ⟨_, rfl⟩
  refine .inr (congrArg (Ret.bind _) (funext fun _ => funext fun t => ?_))
  rw [mutate, memWrite, if_pos (by omega), Ret.bind_ok]

/-! ## The session operations -/

theorem selectChannel_transacting (c : Byte)
    (hP : P s.seqStep (e4wRequest s.cfg.params s.cfg.params.cmdDeviceInit 0 [c])) :
    Transacting P 1 s (selectChannel c s) := by
  have sent : Transacting P 1 s.clearChan (deviceInit c s.clearChan) := e4wSend_transacting hP
  refine Transacting.after (t := s.clearChan) ?_ rfl
  exact sent.bind (n := 0) fun _ t _ => .ok () (.of_same rfl)

theorem exitSession_transacting (hP : P s.seqStep (e4wRequest s.cfg.params s.cfg.params.cmdExit 0 [0x00])) :
    Transacting P 1 s (exitSession s) := by
  have sent : Transacting P 1 s.clearChan (bootloaderExit s.clearChan) := e4wSend_transacting hP
  refine Transacting.after (t := s.clearChan) ?_ rfl
  exact sent.bind (n := 0) fun _ t _ => .ok () (.of_same rfl)

end

end Sys2Proof.Machine
end

section
/-! SUPPORT. The order of the sends of FLASH_ALL, whatever the peer answers and wherever it is abandoned (R271, R342): what each step sends, and the marker it finds and leaves in the mirror. -/

namespace Sys2Proof.Machine

open Ret

/-! ## The settings page on the wire -/

/-- The payload of a request stands after its five header bytes (R100). -/
theorem e4wRequest_getD {p : Params} {c : Byte} {addr : Half} {out : List Byte} {a : Nat} (h : a < out.length) :
    (e4wRequest p c addr out).getD (5 + a) 0 = out.getD a 0 := by
  have header : (e4wHeader p c addr out).length = 5 := rfl
  rw [e4wRequest, List.append_assoc, List.getD_append_right _ _ _ _ (by omega), header, Nat.add_sub_cancel_left,
    List.getD_append _ _ _ _ h]

theorem pageRequest_length (s : State) : (pageRequest s).length = 263 := by
  rw [pageRequest, e4wRequest_length, readBytes_length]

/-- The bytes of the mirror in the request of a write back. -/
theorem pageRequest_getD {s : State} {a : Nat} (h : a < 256) : (pageRequest s).getD (5 + a) 0 = readByte s.mem a := by
  rw [pageRequest, e4wRequest_getD (by simpa using h), readBytes_getD _ _ _ _ h, Nat.zero_add]

/-- A byte of a field keeps its value over the edit of a field apart from it. -/
theorem readByte_apart {mem : Memory} {m e : FieldEntry} {raw : List Byte} (apart : fieldsApart m e) (some : 1 ≤ m.width)
    (width : raw.length = e.width) : readByte (writeBytes mem e.offset raw) m.offset = readByte mem m.offset := by
  unfold fieldsApart at apart
  rw [readByte_writeBytes, if_neg (by omega)]

/-! ## The order of the sends -/

/-- What may be sent before step 7: a settings page of the steps up to 6 carries 0x00 at the marker's offset (R271). -/
def SentBefore (m : FieldEntry) (k : BitVec 4) (bs : List Byte) : Prop :=
  k ≠ 7 ∧ (k = 2 ∨ k = 3 ∨ k = 4 ∨ k = 6 → bs.length = 263 → bs.getD (5 + m.offset) 0 = 0x00)

/-- A settings page that carries 0x01 at the marker's offset. -/
def MarkedValid (m : FieldEntry) (bs : List Byte) : Prop := bs.length = 263 ∧ bs.getD (5 + m.offset) 0 = 0x01

/-- The fail-safe order (R271 (a)) of a run in which step 7 comes after `n` transactions. -/
structure FailSafe (m : FieldEntry) (n : Nat) (new : List StreamEvent) : Prop where
  invalid : ∀ k bs w, StreamEvent.write k bs w ∈ new → k = 2 ∨ k = 3 ∨ k = 4 ∨ k = 6 → bs.length = 263 →
    bs.getD (5 + m.offset) 0 = 0x00
  valid : ∀ k bs w, StreamEvent.write k bs w ∈ new → k = 7 → MarkedValid m bs
  last : ∀ pre bs w post, new = pre ++ .write 7 bs w :: post →
    ∃ ts : List (List StreamEvent), pre = ts.flatten ∧ (∀ es ∈ ts, acknowledged es) ∧ ts.length = n

/-- The operation begun in `s` has kept the fail-safe order up to `t`. -/
def Safe (m : FieldEntry) (n : Nat) (s t : State) : Prop := ∃ new, t.events = s.events ++ new ∧ FailSafe m n new

/-- A run that has sent nothing in step 7. -/
theorem FailSafe.of_before {m : FieldEntry} {n : Nat} {new : List StreamEvent} (h : Sends (SentBefore m) new) :
    FailSafe m n new := by
  refine ⟨fun k bs w hx => (h k bs w hx).2, fun k bs w hx h7 => absurd h7 (h k bs w hx).1, fun pre bs w post eq => ?_⟩
  have sent : StreamEvent.write 7 bs w ∈ new := by simp [eq]
  exact absurd rfl (h 7 bs w sent).1

/-- A run in which step 7 has written its page, and only the exit of step 8 may have followed. -/
theorem FailSafe.of_page {m : FieldEntry} {ts : List (List StreamEvent)} {bs : List Byte} {w : Nat}
    {rest : List StreamEvent} (before : Sends (SentBefore m) ts.flatten) (made : ∀ es ∈ ts, acknowledged es)
    (page : MarkedValid m bs) (after : Sends (fun k _ => k = 8) rest) :
    FailSafe m ts.length (ts.flatten ++ .write 7 bs w :: rest) := by
  have sorts : ∀ k bs' w', StreamEvent.write k bs' w' ∈ ts.flatten ++ .write 7 bs w :: rest →
      SentBefore m k bs' ∨ k = 7 ∧ bs' = bs ∨ k = 8 := by
    intro k bs' w' hx
    rcases List.mem_append.1 hx with hx | hx
    · exact .inl (before k bs' w' hx)
    rcases List.mem_cons.1 hx with same | hx
    · cases same; exact .inr (.inl ⟨rfl, rfl⟩)
    · exact .inr (.inr (after k bs' w' hx))
  refine ⟨fun k bs' w' hx hk => ?_, fun k bs' w' hx hk => ?_, fun pre bs' w' post eq => ⟨ts, ?_, made, rfl⟩⟩
  · rcases sorts k bs' w' hx with sent | ⟨rfl, -⟩ | rfl
    · exact sent.2 hk
    · simp at hk
    · simp at hk
  · rcases sorts k bs' w' hx with sent | ⟨-, rfl⟩ | rfl
    · exact absurd hk sent.1
    · exact page
    · simp at hk
  · rcases List.append_eq_append_iff.1 eq with ⟨mid, hpre, htail⟩ | ⟨mid, hts, htail⟩
    · cases mid with
      | nil => simpa using hpre
      | cons x mid =>
        rw [List.cons_append] at htail
        obtain ⟨-, hrest⟩ := List.cons.inj htail
        have sent : StreamEvent.write 7 bs' w' ∈ rest := by simp [hrest]
        have eight : (7 : BitVec 4) = 8 := after _ _ _ sent
        exact absurd eight (by decide)
    · cases mid with
      | nil => simpa using hts.symm
      | cons x mid =>
        rw [List.cons_append] at htail
        obtain ⟨rfl, -⟩ := List.cons.inj htail
        exact absurd rfl (before 7 bs' w' (by simp [hts])).1

theorem Issued.safe {m : FieldEntry} {n : Nat} {s t : State} (h : Issued (SentBefore m) s t) : Safe m n s t := by
  obtain ⟨new, events, sends⟩ := h
  exact ⟨new, events, .of_before sends⟩

/-! ## The marker in the mirror -/

/-- The mirror is populated, and the marker in it reads 0x00. -/
structure MarkedInvalid (m : FieldEntry) (t : State) : Prop where
  cached : t.cached = true
  byte : readByte t.mem m.offset = 0x00

section
variable {m : FieldEntry} {t : State} (hk : t.seqStep ≠ 7) (fits : m.offset < 256)
include hk

/-- A device-read has no page in it. -/
theorem sentBefore_read (p : Params) (c : Byte) (a : Half) (n : Nat) :
    SentBefore m t.seqStep (e4wRequest p c a [lenEnc n]) := ⟨hk, fun _ length => by simp at length⟩

include fits

/-- A write back of a mirror edited to `mem`, whose marker reads 0x00. -/
theorem writeBack_invalid {mem : Memory} (cached : t.cached = true) (byte : readByte mem m.offset = 0x00) :
    Leads (fun u => Acked (SentBefore m) 1 t u ∧ MarkedInvalid m u) (Issued (SentBefore m) t)
      (writeBack (t.setMem mem)) := by
  have kept : SameCache (t.setMem mem) (writeBack (t.setMem mem)).state := by
    rw [writeBack, memRead, if_pos (by omega), Ret.bind_ok]
    exact sameCache_rel.writeFlash _ _ _
  have sent : Transacting (SentBefore m) 1 (t.setMem mem) (writeBack (t.setMem mem)) :=
    writeBack_transacting ⟨hk, fun _ _ => (pageRequest_getD fits).trans byte⟩
  refine Leads.mono (sent.after (s := t) rfl) (fun _ u hu acked => ⟨acked, ?_⟩) fun _ issued => issued
  rw [hu] at kept
  exact ⟨kept.1.trans cached, (kept.2 _).trans byte⟩

/-- The edit of a field of the sequencer's own after which the marker reads 0x00. -/
theorem setOwnField_invalid {i : Byte} {e : FieldEntry} {x : Value} {raw : List Byte}
    (he : t.cfg.params.find i = some e) (hx : encodeValue t.cfg.params.strPad e.width e.codec x = .ok raw)
    (edit : ∀ u : State, (t.cached = true → u.mem = t.mem) → readByte (writeBytes u.mem e.offset raw) m.offset = 0x00) :
    Leads (fun u => Acked (SentBefore m) (fetchCount t + 1) t u ∧ MarkedInvalid m u) (Issued (SentBefore m) t)
      (setOwnField i x t) := by
  rw [setOwnField, lookup_of he, Ret.bind_ok]
  rcases setField_cases he hx with ⟨y, raised⟩ | edited
  · rw [raised]
    exact .stop _ (.of_same rfl)
  rw [edited]
  refine Leads.bind (fetchIfAbsent_transacting fun a n => sentBefore_read hk _ _ a n) fun _ u hu acked => ?_
  obtain ⟨cached, same⟩ := fetchIfAbsent_ok hu
  have step := (inOneStep_cacheRel.fetchIfAbsent t).1
  rw [hu, Ret.state_ok] at step
  have back := writeBack_invalid (step.trans_ne hk) fits cached (edit u fun c => congrArg State.mem (same c))
  exact back.mono (fun _ v _ ⟨more, invalid⟩ => ⟨acked.trans more, invalid⟩) fun _ more => acked.issued.trans more

/-- The version reset leaves the marker 0x00 (R265). -/
theorem resetVersion_invalid {j n : FieldEntry} (hj : t.cfg.params.find t.cfg.params.fVerMajor = some j)
    (hn : t.cfg.params.find t.cfg.params.fVerMinor = some n) (some : 1 ≤ m.width) (apartJ : fieldsApart m j)
    (apartN : fieldsApart m n) (h : MarkedInvalid m t) :
    Leads (fun u => Acked (SentBefore m) 1 t u ∧ MarkedInvalid m u) (Issued (SentBefore m) t) (resetVersion t) := by
  obtain ⟨-, ⟨j', ej, wj, -⟩, ⟨n', en, wn, -⟩, -⟩ := own_fields_present t.cfg
  rw [hj] at ej; cases ej
  rw [hn] at en; cases en
  have fitsJ := find_range hj
  have fitsN := find_range hn
  have byte : readByte (writeBytes (writeBytes t.mem j.offset [0]) n.offset [0]) m.offset = 0x00 := by
    rw [readByte_apart apartN some (by simp [wn]), readByte_apart apartJ some (by simp [wj])]
    exact h.byte
  rw [resetVersion, lookup_of hj, Ret.bind_ok, lookup_of hn, Ret.bind_ok, mutate, memWrite,
    if_pos (by simp; omega), Ret.bind_ok, mutate, memWrite, if_pos (by simp; omega), Ret.bind_ok]
  exact writeBack_invalid hk fits h.cached byte

end

/-- The edit of a field in a populated mirror posts the page it makes, and nothing else. -/
theorem setOwnField_posted {i : Byte} {e : FieldEntry} {x : Value} {raw : List Byte} {t : State}
    (he : t.cfg.params.find i = some e) (hx : encodeValue t.cfg.params.strPad e.width e.codec x = .ok raw)
    (cached : t.cached = true) :
    Posted t (setOwnField i x t).state (pageRequest (t.setMem (writeBytes t.mem e.offset raw))) := by
  rw [setOwnField, lookup_of he, Ret.bind_ok]
  rcases setField_cases he hx with ⟨y, raised⟩ | edited
  · rw [raised]
    exact .inl rfl
  · rw [edited, fetchIfAbsent_cached cached, Ret.bind_ok]
    exact (writeBack_posted _).after rfl rfl

/-! ## The steps before step 7 -/

/-- The operation begun in `s` has come to `t` with `c` acknowledged transactions, each sent as it may be before step 7. -/
structure Along (s : State) (m : FieldEntry) (c : Nat) (t : State) : Prop where
  host : SameHost s t
  acked : Acked (SentBefore m) c s t

section
variable {s t : State} {m : FieldEntry} {c N : Nat} (h : Along s m c t)
include h

theorem Along.step {Q : State → Prop} {k : BitVec 4} {p : State → Ret Unit} {i : Nat}
    (ran : Ran (t.setSeqStep k) (p (t.setSeqStep k)))
    (run : Leads (fun u => Acked (SentBefore m) i (t.setSeqStep k) u ∧ Q u) (Issued (SentBefore m) (t.setSeqStep k))
      (p (t.setSeqStep k))) :
    Leads (fun u => Along s m (c + i) u ∧ Q u) (Safe m N s) (seqStepDo k p t) := by
  have host : SameHost (t.setSeqStep k) (p (t.setSeqStep k)).state := sameHost_rel.of_run ran.run
  refine Leads.mono run (fun a u hu ⟨acked, hq⟩ => ⟨⟨?_, h.acked.trans acked⟩, hq⟩) fun u issued =>
    (h.acked.issued.trans issued).safe
  have out : (p (t.setSeqStep k)).state = u := congrArg Ret.state hu
  rw [out] at host
  exact sameHost_rel.trans _ _ _ h.host host

/-- Step 1 (R262). -/
theorem Along.selects :
    Leads (fun u => Along s m (c + 1) u ∧ u.cached = t.cached) (Safe m N s)
      (seqStepDo 1 (fun t => selectChannel t.opnd.chan t) t) := by
  have kept := (sameCache_rel.selectChannel t.opnd.chan (t.setSeqStep 1)).1
  have sent : Transacting (SentBefore m) 1 (t.setSeqStep 1) (selectChannel t.opnd.chan (t.setSeqStep 1)) :=
    selectChannel_transacting _ ⟨by simp, by simp⟩
  refine h.step (selectChannel_ran _ _) (Leads.mono sent (fun _ u hu acked => ⟨acked, ?_⟩) fun _ issued => issued)
  have out : (selectChannel t.opnd.chan (t.setSeqStep 1)).state = u := congrArg Ret.state hu
  rwa [out] at kept

/-- The steps that set one field of the sequencer's own and leave the marker 0x00 (R263, R264, R267). -/
theorem Along.setsField {k : BitVec 4} (hk : k ≠ 7) (fits : m.offset < 256) (field : Params → Byte) {e : FieldEntry}
    {x : Value} {raw : List Byte} (he : s.cfg.params.find (field s.cfg.params) = some e)
    (hx : encodeValue s.cfg.params.strPad e.width e.codec x = .ok raw)
    (edit : ∀ u : State, (t.cached = true → u.mem = t.mem) → readByte (writeBytes u.mem e.offset raw) m.offset = 0x00) :
    Leads (fun u => Along s m (c + (fetchCount t + 1)) u ∧ MarkedInvalid m u) (Safe m N s)
      (seqStepDo k (fun t => setOwnField (field t.cfg.params) x t) t) := by
  have cfg : (t.setSeqStep k).cfg = s.cfg := h.host.cfg
  rw [← cfg] at he hx
  exact h.step (setOwnField_ran _ _ _) (setOwnField_invalid (t := t.setSeqStep k) hk fits he hx edit)

/-- Step 4 (R265). -/
theorem Along.resetsVersion {j n : FieldEntry} (hj : s.cfg.params.find s.cfg.params.fVerMajor = some j)
    (hn : s.cfg.params.find s.cfg.params.fVerMinor = some n) (fits : m.offset < 256) (some : 1 ≤ m.width)
    (apartJ : fieldsApart m j) (apartN : fieldsApart m n) (invalid : MarkedInvalid m t) :
    Leads (fun u => Along s m (c + 1) u ∧ MarkedInvalid m u) (Safe m N s) (seqStepDo 4 resetVersion t) := by
  have cfg : (t.setSeqStep 4).cfg = s.cfg := h.host.cfg
  rw [← cfg] at hj hn
  exact h.step (resetVersion_ran _) (resetVersion_invalid (t := t.setSeqStep 4) (by simp) fits hj hn some apartJ apartN
    ⟨invalid.cached, invalid.byte⟩)

/-- Step 5 (R266). -/
theorem Along.writesImage (fw : List Byte) (invalid : MarkedInvalid m t) :
    Leads (fun u => Along s m (c + chunkCount fw.length) u ∧ MarkedInvalid m u) (Safe m N s)
      (seqStepDo 5 (fun t => writeFlash t.cfg.params.fwBase.toNat fw t) t) := by
  have kept := sameCache_rel.writeFlash t.cfg.params.fwBase.toNat fw (t.setSeqStep 5)
  have sent : Transacting (SentBefore m) (chunkCount fw.length) (t.setSeqStep 5)
      (writeFlash t.cfg.params.fwBase.toNat fw (t.setSeqStep 5)) :=
    writeFlash_transacting _ _ fun a j hj => ⟨by simp, by simp⟩
  refine h.step (writeFlash_ran _ _ _) (Leads.mono sent (fun _ u hu acked => ⟨acked, ?_⟩) fun _ issued => issued)
  have out : (writeFlash t.cfg.params.fwBase.toNat fw (t.setSeqStep 5)).state = u := congrArg Ret.state hu
  rw [out] at kept
  exact ⟨kept.1.trans invalid.cached, (kept.2 _).trans invalid.byte⟩

end

/-! ## Steps 7 and 8 -/

/-- In the operation begun in `s`, step 7 has come as far as it does, `c` transactions after the start; the exit may follow. -/
def Late (s : State) (m : FieldEntry) (c : Nat) (t : State) : Prop :=
  ∃ (ts : List (List StreamEvent)) (late : List StreamEvent), t.events = s.events ++ (ts.flatten ++ late) ∧
    Sends (SentBefore m) ts.flatten ∧ (∀ es ∈ ts, acknowledged es) ∧ ts.length = c ∧
    (Sends (fun k _ => k = 8) late ∨
      ∃ bs w rest, late = .write 7 bs w :: rest ∧ MarkedValid m bs ∧ Sends (fun k _ => k = 8) rest)

section
variable {s t u : State} {m : FieldEntry} {c : Nat}

theorem Late.safe (h : Late s m c t) : Safe m c s t := by
  obtain ⟨ts, late, events, before, made, rfl, after | ⟨bs, w, rest, rfl, page, after⟩⟩ := h
  · refine ⟨_, events, .of_before (before.append (after.mono fun k bs hk => ?_))⟩
    subst hk
    exact ⟨by simp, by simp⟩
  · exact ⟨_, events, .of_page before made page after⟩

theorem Late.exits (h : Late s m c t) (g : Issued (fun k _ => k = 8) t u) : Late s m c u := by
  obtain ⟨ts, late, events, before, made, count, tail⟩ := h
  obtain ⟨new, events', exit⟩ := g
  refine ⟨ts, late ++ new, by rw [events', events]; simp only [List.append_assoc], before, made, count, ?_⟩
  rcases tail with after | ⟨bs, w, rest, rfl, page, after⟩
  · exact .inl (after.append exit)
  · exact .inr ⟨bs, w, rest ++ new, rfl, page, after.append exit⟩

/-- Step 7 posts one page, after all that went before (R268). -/
theorem Along.posts (h : Along s m c t) {bs : List Byte} (posted : Posted (t.setSeqStep 7) u bs)
    (page : MarkedValid m bs) : Late s m c u := by
  obtain ⟨ts, events, made, count, before⟩ := h.acked
  rcases posted with same | ⟨w, reads, events', only⟩
  · exact ⟨ts, [], by rw [same, State.setSeqStep_events, events, List.append_nil], before, made, count, .inl .nil⟩
  · refine ⟨ts, .write 7 bs w :: reads, ?_, before, made, count, .inr ⟨bs, w, reads, rfl, page, .of_reads only⟩⟩
    rw [events', State.setSeqStep_events, State.setSeqStep_seqStep, events, List.append_assoc]

/-- The last two steps (R268, R269). -/
theorem Along.finishes (h : Along s m c t) (cached : t.cached = true) (fits : m.offset < 256)
    (hm : s.cfg.params.find s.cfg.params.fMarker = some m)
    (hx : encodeValue s.cfg.params.strPad m.width m.codec (.int 1) = .ok [0x01]) :
    Safe m c s ((seqStepDo 7 (fun t => setOwnField t.cfg.params.fMarker (.int 1) t) t).bind fun _ t =>
      seqStepDo 8 exitSession t).state := by
  have cfg : (t.setSeqStep 7).cfg = s.cfg := h.host.cfg
  rw [← cfg] at hm hx
  have page : MarkedValid m (pageRequest ((t.setSeqStep 7).setMem (writeBytes t.mem m.offset [0x01]))) := by
    refine ⟨pageRequest_length _, (pageRequest_getD fits).trans ?_⟩
    simp [readByte_writeBytes]
  have step7 : Late s m c (seqStepDo 7 (fun t => setOwnField t.cfg.params.fMarker (.int 1) t) t).state :=
    h.posts (setOwnField_posted hm hx cached) page
  refine Late.safe ?_
  generalize seqStepDo 7 (fun t => setOwnField t.cfg.params.fMarker (.int 1) t) t = r at step7
  cases r with
  | stop e u => exact step7
  | ok a u =>
    have exit : Transacting (fun k _ => k = 8) 1 (u.setSeqStep 8) (exitSession (u.setSeqStep 8)) :=
      exitSession_transacting rfl
    show Late s m c (exitSession (u.setSeqStep 8)).state
    generalize exitSession (u.setSeqStep 8) = r at exit
    cases exit with
    | ok a acked => exact step7.exits acked.issued
    | stop e issued => exact step7.exits issued

end

/-! ## FLASH_ALL -/

/-- The eight steps keep the fail-safe order: step 7 comes after the select, a fetch if the mirror was empty, four write backs and the firmware's chunks. -/
theorem flashSteps_safe {s : State} {m j n d : FieldEntry} (own : ownFields s.cfg.params m j n d) (fw : List Byte) :
    Safe m (chunkCount fw.length + (fetchCount s + 5)) s (flashSteps fw s).state := by
  obtain ⟨hm, hj, hn, hd, apartJ, apartN, apartD, -⟩ := own
  obtain ⟨some, top⟩ := find_range hm
  have fits : m.offset < 256 := by omega
  obtain ⟨encInvalid, encValid, encFail, encNotReady⟩ := own_values hm hd
  have keepsMarker : ∀ {t u : State} {raw : List Byte}, raw.length = d.width → MarkedInvalid m t →
      (t.cached = true → u.mem = t.mem) → readByte (writeBytes u.mem d.offset raw) m.offset = 0x00 :=
    fun width invalid same => by rw [readByte_apart apartD some width, same invalid.cached, invalid.byte]
  have populated : ∀ {t : State}, MarkedInvalid m t → fetchCount t = 0 := fun invalid => if_pos invalid.cached
  have start : Along s m 0 s := ⟨sameHost_rel.refl s, .of_same rfl⟩
  refine start.selects.bind_state fun _ t1 _ ⟨h1, cached⟩ => ?_
  refine (h1.setsField (k := 2) (by decide) fits Params.fMarker hm encInvalid fun u _ => by
    simp [readByte_writeBytes]).bind_state fun _ t2 _ ⟨h2, i2⟩ => ?_
  refine (h2.setsField (k := 3) (by decide) fits Params.fName hd encFail fun u =>
    keepsMarker (encodeValue_length encFail) i2).bind_state fun _ t3 _ ⟨h3, i3⟩ => ?_
  refine (h3.resetsVersion hj hn fits some apartJ apartN i3).bind_state fun _ t4 _ ⟨h4, i4⟩ => ?_
  refine (h4.writesImage fw i4).bind_state fun _ t5 _ ⟨h5, i5⟩ => ?_
  refine (h5.setsField (k := 6) (by decide) fits Params.fName hd encNotReady fun u =>
    keepsMarker (encodeValue_length encNotReady) i5).bind_state fun _ t6 _ ⟨h6, i6⟩ => ?_
  have count : 0 + 1 + (fetchCount t1 + 1) + (fetchCount t2 + 1) + 1 + chunkCount fw.length + (fetchCount t5 + 1) =
      chunkCount fw.length + (fetchCount s + 5) := by
    have first : fetchCount t1 = fetchCount s := by rw [fetchCount, cached, fetchCount]
    rw [first, populated i2, populated i5]
    omega
  rw [count] at h6
  exact h6.finishes i6.cached fits hm encValid

/-- The tests before the steps send nothing (R260). -/
theorem flashAll_safe {s : State} {m j n d : FieldEntry} (own : ownFields s.cfg.params m j n d) :
    Safe m (chunkCount s.opnd.len.toNat + (fetchCount s + 5)) s (flashAll s).state := by
  have silent : ∀ N, Safe m N s s := fun N => (Issued.of_same rfl).safe
  unfold flashAll fwBytes
  split
  · exact silent _
  split
  · exact silent _
  split
  · rename_i length
    rw [Ret.bind_ok, ← length]
    exact flashSteps_safe own s.fw
  · exact silent _

/-- However an operation ends, the stream events are those its procedure made. -/
theorem runOp_events {α : Type} {op : BitVec 4} {body : State → Ret α} {results : α → State → Results × List Byte}
    {s t : State} (h : runOp op body results s = .next t) : t.events = (body s.begin).state.events := by
  rcases runOp_cases op body results s with ⟨a, u, run, eq⟩ | ⟨e, u, run, eq⟩ | ⟨u, run, eq⟩ | ⟨f, u, run, eq⟩
  · rw [eq] at h; cases h
    rw [run]
    rfl
  · obtain ⟨r, bs, entry⟩ := raiseEntry_frame op e u
    rw [eq, entry] at h; cases h
    rw [run]
    rfl
  · rw [eq] at h; cases h
    rw [run]
    rfl
  · rw [eq] at h; cases h

/-- Settles O59: `flashAll_safe`, with the fetch counted where the mirror was empty. -/
theorem markerOrder : Obligations.MarkerOrder := by
  intro s t m j n d own h
  dsimp only [exec, execFlashAll] at h
  obtain ⟨new, events, order⟩ := flashAll_safe (s := s.begin) own
  refine ⟨new, (runOp_events h).trans events, order.invalid, order.valid, fun pre bs w post eq => ?_⟩
  obtain ⟨ts, flat, made, count⟩ := order.last pre bs w post eq
  refine ⟨ts, flat, made, count.trans (congrArg _ ?_)⟩
  show (if s.cached then 0 else 1) + 5 = _
  split <;> rfl

end Sys2Proof.Machine
end

section
/-! SUPPORT. The decoder and the encoder invert each other (30_encoding.md R102, R104, R112, R113, R118, R120 to R122, 60_exceptions.md R290): every code read is the one the encoder writes (`decode_sound`), and every code written is read back (`decode_encode`). -/

namespace Sys2Proof

/-! ## One byte in its place -/

/-- An acknowledgement byte without a name of its own is read as itself (R104). -/
theorem decodeAck_unnamed {b : Byte} (h : ackUnnamed b = true) : decodeAck b = some (.ackUnknown b) := by
  have word : b = BitVec.ofNat 8 b.toNat := by simp
  unfold decodeAck
  generalize b.toNat = n at word ⊢
  subst word
  split
  case h_8 => rfl
  all_goals exact absurd h (by decide)

theorem decodeAck_sound {p : Params} {b : Byte} {i : Instr} (h : decodeAck b = some i) :
    i.wf = true ∧ encode p i = (.ack, [b]) := by
  by_cases unnamed : ackUnnamed b = true
  · rw [decodeAck_unnamed unnamed] at h
    cases h
    exact ⟨unnamed, rfl⟩
  · have named : b ∈ namedAcks := by simpa [ackUnnamed] using unnamed
    simp only [namedAcks, List.mem_cons, List.not_mem_nil, or_false] at named
    rcases named with rfl | rfl | rfl | rfl | rfl | rfl | rfl <;> cases h <;> exact ⟨rfl, rfl⟩

theorem decodeRequest_sound {p : Params} {b : Byte} {i : Instr} (h : decodeRequest p b = some i) :
    i.wf = true ∧ encode p i = (.e4wRequest, [b]) := by
  unfold decodeRequest at h
  split at h
  · subst b; cases h; exact ⟨rfl, rfl⟩
  split at h
  · subst b; cases h; exact ⟨rfl, rfl⟩
  split at h
  · subst b; cases h; exact ⟨rfl, rfl⟩
  split at h
  · subst b; cases h; exact ⟨rfl, rfl⟩
  · cases h

/-- The instruction a byte means in its place is encoded as that byte there. -/
theorem decodeByte_sound {p : Params} {sp : CodeSpace} {b : Byte} {i : Instr} (h : decodeByte p sp b = some i) :
    i.wf = true ∧ encode p i = (sp, [b]) := by
  cases sp with
  | diag => cases h
  | ack => exact decodeAck_sound h
  | e4wRequest => exact decodeRequest_sound h
  | hostOp | valueKind | blCmd | marker | status | tableRow =>
    have word : b = BitVec.ofNat 8 b.toNat := by simp
    dsimp only [decodeByte, decodeHostOp, decodeValueKind, decodeBlCmd, decodeMarker, decodeStatus, decodeTableRow] at h
    generalize b.toNat = n at h word
    subst word
    split at h <;> cases h <;> exact ⟨rfl, rfl⟩

/-! ## Runs of bytes -/

/-- Everywhere but in the device name a code is one byte. -/
theorem decode_eq_ok {p : Params} {sp : CodeSpace} {bs : List Byte} {i : Instr} (hsp : sp ≠ .diag)
    (h : decode p sp bs = .ok i) : ∃ b, bs = [b] ∧ decodeByte p sp b = some i := by
  unfold decode at h
  split at h
  · exact absurd rfl hsp
  split at h
  · cases h
  · split at h <;> cases h
    exact ⟨_, rfl, ‹_›⟩
  · cases h

theorem decode_diag_sound {p : Params} {bs : List Byte} {i : Instr} (h : decode p .diag bs = .ok i) :
    i.wf = true ∧ encode p i = (.diag, bs) := by
  dsimp only [decode] at h
  split at h
  · subst bs; cases h; exact ⟨rfl, rfl⟩
  split at h
  · subst bs; cases h; exact ⟨rfl, rfl⟩
  · cases h

/-- Bytes that mean an instruction are what the encoder writes for it in that place. -/
theorem decode_sound {p : Params} {sp : CodeSpace} {bs : List Byte} {i : Instr} (h : decode p sp bs = .ok i) :
    i.wf = true ∧ encode p i = (sp, bs) := by
  by_cases hsp : sp = .diag
  · subst sp
    exact decode_diag_sound h
  · obtain ⟨b, rfl, hb⟩ := decode_eq_ok hsp h
    exact decodeByte_sound hb

/-- The four command bytes tried in the table's order, none hiding a later one (R105). -/
theorem decodeRequest_cmds {p : Params} (h : p.cmdsDistinct = true) :
    decodeRequest p p.cmdDeviceInit = some .e4wDeviceInit ∧ decodeRequest p p.cmdDeviceRead = some .e4wDeviceRead ∧
      decodeRequest p p.cmdDeviceWrite = some .e4wDeviceWrite ∧ decodeRequest p p.cmdExit = some .e4wExit := by
  have distinct : [p.cmdDeviceInit, p.cmdDeviceRead, p.cmdDeviceWrite, p.cmdExit].Nodup := of_decide_eq_true h
  simp only [List.nodup_cons, List.mem_cons, List.not_mem_nil, or_false, not_or] at distinct
  obtain ⟨⟨initRead, initWrite, initExit⟩, ⟨readWrite, readExit⟩, writeExit, -⟩ := distinct
  simp [decodeRequest, Ne.symm initRead, Ne.symm initWrite, Ne.symm initExit, Ne.symm readWrite, Ne.symm readExit,
    Ne.symm writeExit]

/-- What the encoder writes for a well-formed instruction means that instruction. -/
theorem decode_encode {p : Params} (hp : p.cmdsDistinct = true) {i : Instr} (h : i.wf = true) :
    decode p (encode p i).1 (encode p i).2 = .ok i := by
  obtain ⟨init, read, write, exit⟩ := decodeRequest_cmds hp
  cases i with
  | ackUnknown b => simp only [encode, decode, decodeByte, decodeAck_unnamed h]
  | e4wDeviceInit => simp only [encode, decode, decodeByte, init]
  | e4wDeviceRead => simp only [encode, decode, decodeByte, read]
  | e4wDeviceWrite => simp only [encode, decode, decodeByte, write]
  | e4wExit => simp only [encode, decode, decodeByte, exit]
  | _ => rfl

/-- Settles O1: `decode_sound` one way, `decode_encode` the other. -/
theorem decodeEncodeAgree : Obligations.DecodeEncodeAgree := by
  intro p sp bs i hp
  refine ⟨decode_sound, fun ⟨hwf, henc⟩ => ?_⟩
  have back := decode_encode hp hwf
  rwa [henc] at back

/-- Settles O2: each word written out is read by its table. -/
theorem decodesWrittenWords : Obligations.DecodesWrittenWords := by
  intro p
  have init : decode p .e4wRequest [p.cmdDeviceInit] = .ok .e4wDeviceInit := by
    simp only [decode, decodeByte, decodeRequest, if_true]
  exact ⟨rfl, rfl, rfl, rfl, rfl, rfl, rfl, rfl, init, rfl, rfl, rfl, rfl, rfl⟩

end Sys2Proof
end

section
/-! SUPPORT. The rows of the table that act without the stream: the reserved operation codes, the bootloader's codes, the status codes, the value kinds, the acknowledgement bytes and the length byte; and the bytes of the request frames. -/

namespace Sys2Proof.Machine

/-! ## Codes -/

/-- Settles O12: each row of R118 is the refusal under its own code. -/
theorem bootloaderRowsRefused : Obligations.BootloaderRowsRefused := by
  intro i code s row
  simp only [bootloaderRows, List.mem_cons, Prod.mk.injEq, List.not_mem_nil, or_false] at row
  rcases row with ⟨rfl, rfl⟩ | ⟨rfl, rfl⟩ | ⟨rfl, rfl⟩ | ⟨rfl, rfl⟩ | ⟨rfl, rfl⟩ | ⟨rfl, rfl⟩ | ⟨rfl, rfl⟩ | ⟨rfl, rfl⟩ |
    ⟨rfl, rfl⟩ | ⟨rfl, rfl⟩ <;> rfl

theorem reservedOp_eq (op : BitVec 4) (s : State) :
    reservedOp op s = .next (s.endOp { status := statusCode .unknownOp } []) := runOp_refused rfl

/-- Settles O55: a reserved code raises in its first line. -/
theorem reservedOperationCodes : Obligations.ReservedOperationCodes := by
  rintro i s (rfl | rfl | rfl)
  · exact reservedOp_eq 0x0 s
  · exact reservedOp_eq 0xE s
  · exact reservedOp_eq 0xF s

theorem endWith_eq (e : Status) (s : State) : endWith e s = .next (s.endOp { status := statusCode e } []) :=
  runOp_refused rfl

/-- The rows of `statusRows` raise their status in the first line of the operation in `OP`. -/
theorem exec_statusRow {i : Instr} {e : Status} (row : (i, e) ∈ statusRows) (s : State) : exec i s = endWith e s := by
  simp only [statusRows, List.mem_cons, Prod.mk.injEq, List.not_mem_nil, or_false] at row
  rcases row with ⟨rfl, rfl⟩ | ⟨rfl, rfl⟩ | ⟨rfl, rfl⟩ | ⟨rfl, rfl⟩ | ⟨rfl, rfl⟩ | ⟨rfl, rfl⟩ | ⟨rfl, rfl⟩ | ⟨rfl, rfl⟩ |
    ⟨rfl, rfl⟩ | ⟨rfl, rfl⟩ | ⟨rfl, rfl⟩ | ⟨rfl, rfl⟩ | ⟨rfl, rfl⟩ | ⟨rfl, rfl⟩ <;> rfl

theorem exec_valueKindRow {i : Instr} {k : BitVec 2} (row : (i, k) ∈ valueKindRows) (s : State) :
    exec i s = .next (s.setVkind k) := by
  simp only [valueKindRows, List.mem_cons, Prod.mk.injEq, List.not_mem_nil, or_false] at row
  rcases row with ⟨rfl, rfl⟩ | ⟨rfl, rfl⟩ | ⟨rfl, rfl⟩ | ⟨rfl, rfl⟩ <;> rfl

/-- Settles O56: the error entry alone, the three rows that keep a register, and the write of a kind. -/
theorem statusAndKindRows : Obligations.StatusAndKindRows := by
  intro s
  refine ⟨fun i e row => (exec_statusRow row s).trans (endWith_eq e s), rfl, rfl, fun i code row => ?_,
    fun i k row => exec_valueKindRow row s⟩
  have wraps : ∀ e : Status, ∃ t, Host.Outcome.next (s.stepFailed e s.res.status) =
      (.next t : Host.Outcome State Fault Refusal) ∧ Ended t ∧ t.res.status = statusCode e ∧ t.res.cause = s.res.status ∧
        t.res.step = s.seqStep ∧ t.res.ack = s.res.ack ∧ t.res.len = 0 ∧ t.inbuf = [] ∧ SameHost s t ∧ SameCache s t ∧
        SameChannel s t ∧ NoStream s t := fun e =>
    ⟨_, rfl, ⟨rfl, rfl, rfl⟩, rfl, rfl, rfl, rfl, rfl, rfl, sameHost_rel.refl s, sameCache_rel.refl s,
      sameChannel_rel.refl s, rfl, rfl⟩
  simp only [List.mem_cons, Prod.mk.injEq, List.not_mem_nil, or_false] at row
  rcases row with ⟨rfl, rfl⟩ | ⟨rfl, rfl⟩
  · exact wraps .sequenceError
  · exact wraps .channelInitError

/-! ## Acknowledgement bytes -/

/-- A good reply's acknowledgement byte goes to `R_ACK`, and decides between success and `CommandError` (R104, R185). -/
theorem receiveAck_eq (b : Byte) (s : State) :
    receiveAck b s = .next (s.endOp { status := if b = 0x00 then 0x00 else 0x20, ack := b } []) := by
  by_cases hb : b = 0x00
  · have ok : e4wAck b s.begin = .ok () (s.begin.setAck b) := by rw [e4wAck, ackError, if_pos hb]
    rw [if_pos hb]
    exact runOp_ok ok
  · have bad : e4wAck b s.begin = raise .commandError (s.begin.setAck b) := by rw [e4wAck, ackError, if_neg hb]
    rw [if_neg hb]
    exact (runOp_raise bad).trans (congrArg _ (raiseEntry_ack (by decide) _ _))

/-- Settles O35: each row is `receiveAck` on its byte. -/
theorem ackRows : Obligations.AckRows := by
  intro i b s row
  have received : exec i s = receiveAck b s := by
    simp only [List.mem_cons, Prod.mk.injEq, List.not_mem_nil, or_false] at row
    rcases row with ⟨rfl, rfl⟩ | ⟨rfl, rfl⟩ | ⟨rfl, rfl⟩ | ⟨rfl, rfl⟩ | ⟨rfl, rfl⟩ | ⟨rfl, rfl⟩ | ⟨rfl, rfl⟩ | ⟨rfl, -⟩ <;> rfl
  rw [received]
  exact receiveAck_eq b s

/-! ## Request frames and the length byte -/

/-- Settles O24: the header fields byte by byte, and the run of the frame the checksum covers. -/
theorem requestLayouts : Obligations.RequestLayouts := by
  intro p cmd c addr out
  have covered : ((mspRequest p cmd out).drop 3).take (5 + out.length) = mspHeader cmd out ++ out :=
    List.take_left' (by simp [mspHeader]; omega)
  have summed : (e4wRequest p c addr out).take (5 + out.length) = e4wHeader p c addr out ++ out :=
    List.take_left' (by simp [e4wHeader]; omega)
  have low : lowByte (BitVec.ofNat 16 out.length) = BitVec.ofNat 8 out.length := by
    apply BitVec.eq_of_toNat_eq
    simp [lowByte]
  have high : highByte (BitVec.ofNat 16 out.length) = BitVec.ofNat 8 (out.length / 256) := by
    apply BitVec.eq_of_toNat_eq
    simp [highByte, Nat.shiftRight_eq_div_pow]
    omega
  have len : BitVec.ofNat 8 (out.length % 256) = lenEnc out.length := by
    apply BitVec.eq_of_toNat_eq
    simp [lenEnc]
  rw [covered, summed, ← low, ← high, len]
  exact ⟨rfl, rfl⟩

section
variable {cmd : Byte} {addr : Half} {out : List Byte} {s : State} (hl : s.linkUp = true)
include hl

/-- A payload without a length byte is refused before anything is sent (R102, R181). -/
theorem e4wPut_empty (h : out.length = 0) : e4wPut cmd addr out s = raise .payloadEmpty s := by
  rw [e4wPut, if_neg (by simp [hl]), if_pos h]

theorem e4wPut_tooLong (h : 256 < out.length) : e4wPut cmd addr out s = raise .payloadTooLong s := by
  rw [e4wPut, if_neg (by simp [hl]), if_neg (by omega), if_pos h]

theorem e4wSend_empty (h : out.length = 0) : e4wSend cmd addr out s = raise .payloadEmpty s := by
  rw [e4wSend, e4wPut_empty hl h, raise_bind]

theorem e4wSend_tooLong (h : 256 < out.length) : e4wSend cmd addr out s = raise .payloadTooLong s := by
  rw [e4wSend, e4wPut_tooLong hl h, raise_bind]

end

/-- A request with the payload of `OUTBUF` that is not admitted has not begun. -/
theorem execE4wSend_refused {s : State} {e : Status}
    (h : e4wSend (lowByte s.opnd.cmd) s.opnd.addr s.outBytes s.begin = raise e s.begin) :
    exec .e4wSend s = .next (s.endOp { status := statusCode e } []) := by
  dsimp only [exec, execE4wSend]
  refine runOp_refused ?_
  exact h

/-- Settles O25: the two maps of R102 invert each other, and a payload of another length is refused. -/
theorem lengthByte : Obligations.LengthByte := by
  refine ⟨fun n h1 h2 => ⟨by simp [lenEnc], lenDec_lenEnc n h1 h2⟩, fun b => ⟨rfl, lenDec_range b⟩, fun s hl h => ?_,
    fun s hl h => ?_⟩
  · exact execE4wSend_refused (e4wSend_empty (s := s.begin) hl (s.outBytes_length.trans h))
  · exact execE4wSend_refused (e4wSend_tooLong (s := s.begin) hl (s.outBytes_length.symm ▸ h))

end Sys2Proof.Machine
end

section
/-! SUPPORT. The stream events of one transaction in their order, whatever the peer answers and wherever it is abandoned (R188, R189 (d)). -/

namespace Sys2Proof.Machine

/-! ## The calls of one transaction -/

/-- The events of a reply read in two phases (R103): none, the header, or a whole header and the rest. -/
inductive ReplyCalls (k : BitVec 4) (tt : Timeout) : List StreamEvent → Prop where
  | none : ReplyCalls k tt []
  | header (h : List Byte) : ReplyCalls k tt [.read k 5 tt h]
  | whole (h b : List Byte) (five : h.length = 5) :
      ReplyCalls k tt [.read k 5 tt h, .read k (lenDec (h.getD 4 0) + 3) tt b]

/-- The events of a transaction with request `tx`: none, a write the stream took in part or whole, or a whole write and the reads of the reply. -/
inductive TransactionCalls (k : BitVec 4) (tt : Timeout) (tx : List Byte) : List StreamEvent → Prop where
  | none : TransactionCalls k tt tx []
  | sent (n : Nat) (le : n ≤ tx.length) : TransactionCalls k tt tx [.write k tx n]
  | heard {es : List StreamEvent} (reply : ReplyCalls k tt es) :
      TransactionCalls k tt tx (.write k tx tx.length :: es)

/-- From `s`, the stream events up to `t` are those of one transaction with request `tx`. -/
def OneTransaction (tx : List Byte) (s t : State) : Prop :=
  ∃ es, TransactionCalls s.seqStep s.timeout tx es ∧ t.events = s.events ++ es

/-- The checks of a reply make no stream call. -/
theorem e4wCheck_events (h b : List Byte) (s : State) : (e4wCheck h b s).state.events = s.events := by
  rw [e4wCheck_eq]
  split
  · rfl
  split
  · rfl
  · rfl

theorem e4wReply_calls (s : State) :
    ∃ es, ReplyCalls s.seqStep s.timeout es ∧ (e4wReply s).state.events = s.events ++ es := by
  unfold e4wReply
  cases header : streamRead 5 s with
  | stop e t =>
    unfold streamRead at header
    split at header <;> cases header
    exact ⟨[], .none, by simp⟩
  | ok h t =>
    obtain ⟨few, -, -, rfl⟩ := streamRead_ok header
    rw [Ret.bind_ok]
    split
    · exact ⟨_, .header h, rfl⟩
    generalize hu : State.setRx _ h = u
    have known : u.seqStep = s.seqStep ∧ u.timeout = s.timeout ∧
        u.events = s.events ++ [.read s.seqStep 5 s.timeout h] := by rw [← hu]; exact ⟨rfl, rfl, rfl⟩
    obtain ⟨step, timeout, events⟩ := known
    cases rest : streamRead (e4wDeclared h + 3) u with
    | stop e v =>
      unfold streamRead at rest
      split at rest <;> cases rest
      exact ⟨_, .header h, events⟩
    | ok b v =>
      obtain ⟨-, -, -, rfl⟩ := streamRead_ok rest
      refine ⟨_, .whole h b (by omega), ?_⟩
      rw [Ret.bind_ok]
      split
      · simp [events, step, timeout, e4wDeclared]
      · simp [e4wCheck_events, events, step, timeout, e4wDeclared]

/-- A request makes no stream call, or its one write. -/
theorem e4wPut_calls (cmd : Byte) (addr : Half) (out : List Byte) (s : State) :
    (e4wPut cmd addr out s).state.events = s.events ∨ ∃ n, n ≤ (e4wRequest s.cfg.params cmd addr out).length ∧
      (e4wPut cmd addr out s).state.events =
        s.events ++ [.write s.seqStep (e4wRequest s.cfg.params cmd addr out) n] := by
  unfold e4wPut
  split
  · exact .inl rfl
  split
  · exact .inl rfl
  split
  · exact .inl rfl
  unfold streamWrite
  split
  · exact .inl rfl
  · rw [Ret.bind_ok]
    split <;> exact .inr ⟨_, Nat.min_le_right _ _, rfl⟩

theorem e4wPut_oneTransaction (cmd : Byte) (addr : Half) (out : List Byte) (s : State) :
    OneTransaction (e4wRequest s.cfg.params cmd addr out) s (e4wPut cmd addr out s).state := by
  rcases e4wPut_calls cmd addr out s with events | ⟨n, le, events⟩
  · exact ⟨[], .none, by simp [events]⟩
  · exact ⟨_, .sent n le, events⟩

/-- Whatever the stream answers, a transaction reads only after its request went out whole (R188). -/
theorem e4wSend_oneTransaction (cmd : Byte) (addr : Half) (out : List Byte) (s : State) :
    OneTransaction (e4wRequest s.cfg.params cmd addr out) s (e4wSend cmd addr out s).state := by
  rw [e4wSend]
  cases put : e4wPut cmd addr out s with
  | stop e t =>
    have only := e4wPut_oneTransaction cmd addr out s
    rwa [put] at only
  | ok a t =>
    obtain ⟨-, -, -, -, rfl⟩ := e4wPut_ok put
    rw [Ret.bind_ok]
    generalize hu : State.addEvent _ _ = u
    obtain ⟨es, reads, events⟩ := e4wReply_calls u
    subst hu
    exact ⟨_, .heard reads, events.trans (List.append_assoc _ _ _)⟩

/-- What follows the transaction makes no stream call. -/
theorem OneTransaction.bind {α β : Type} {tx : List Byte} {s : State} {r : Ret α} {f : α → State → Ret β}
    (h : OneTransaction tx s r.state) (same : ∀ a t, r = .ok a t → (f a t).state.events = t.events) :
    OneTransaction tx s (r.bind f).state := by
  cases r with
  | stop e t => exact h
  | ok a t =>
    obtain ⟨es, calls, events⟩ := h
    exact ⟨es, calls, (same a t rfl).trans events⟩

theorem OneTransaction.of_same {tx : List Byte} {s t : State} (h : t.events = s.events) : OneTransaction tx s t :=
  ⟨[], .none, by simp [h]⟩

/-! ## The rows that are one transaction -/

theorem selectChannel_oneTransaction (c : Byte) (s : State) :
    OneTransaction (e4wRequest s.cfg.params s.cfg.params.cmdDeviceInit 0x0000 [c]) s (selectChannel c s).state := by
  have sent := e4wSend_oneTransaction s.cfg.params.cmdDeviceInit 0x0000 [c] s.clearChan
  exact OneTransaction.bind (s := s) sent fun _ _ _ => rfl

theorem exitSession_oneTransaction (s : State) :
    OneTransaction (e4wRequest s.cfg.params s.cfg.params.cmdExit 0x0000 [0x00]) s (exitSession s).state := by
  have sent := e4wSend_oneTransaction s.cfg.params.cmdExit 0x0000 [0x00] s.clearChan
  exact OneTransaction.bind (s := s) sent fun _ _ _ => rfl

theorem deviceRead_oneTransaction (addr : Half) (n : Nat) (s : State) :
    OneTransaction (e4wRequest s.cfg.params s.cfg.params.cmdDeviceRead addr [lenEnc n]) s (deviceRead addr n s).state := by
  refine (e4wSend_oneTransaction _ _ _ s).bind fun p t _ => ?_
  split <;> rfl

/-- The procedure of the row E4W_DEVICE_READ makes no call before its one transaction. -/
theorem deviceReadRow_oneTransaction (s : State) :
    OneTransaction (e4wRequest s.cfg.params s.cfg.params.cmdDeviceRead s.opnd.addr [lenEnc s.opnd.len.toNat]) s
      (if s.linkUp = false then raise .notConnected s
        else (oneChunk s).bind fun n t => deviceRead t.opnd.addr n t).state := by
  split
  · exact .of_same rfl
  unfold oneChunk
  split
  · exact .of_same rfl
  split
  · exact .of_same rfl
  · exact deviceRead_oneTransaction _ _ s

/-- The stream events of an operation whose procedure makes one transaction. -/
theorem runOp_oneTransaction {α : Type} {op : BitVec 4} {body : State → Ret α}
    {results : α → State → Results × List Byte} {tx : List Byte} {s t : State}
    (run : runOp op body results s = .next t) (h : OneTransaction tx s.begin (body s.begin).state) :
    ∃ es, TransactionCalls 0 s.timeout tx es ∧ t.events = s.events ++ es := by
  obtain ⟨es, calls, events⟩ := h
  exact ⟨es, calls, (runOp_events run).trans events⟩

/-- Settles O32: each row makes its one transaction, and E4W_REQUEST_FRAME only the request of one. -/
theorem e4wAtMostThreeEvents : Obligations.E4wAtMostThreeEvents := by
  intro i cmd addr out tx s t row htx run
  by_cases frame : i = .e4wRequestFrame
  · subst i
    simp only [List.mem_cons, Prod.mk.injEq, reduceCtorEq, false_and, true_and, false_or, List.not_mem_nil,
      or_false] at row
    obtain ⟨rfl, rfl, rfl⟩ := row
    subst htx
    dsimp only [exec, execE4wRequestFrame] at run
    have events := runOp_events run
    rcases e4wPut_calls (lowByte s.opnd.cmd) s.opnd.addr s.outBytes s.begin with same | ⟨n, le, sent⟩
    · exact .inl (events.trans same)
    · exact .inr (.inl ⟨n, le, events.trans sent⟩)
  suffices made : ∃ es, TransactionCalls 0 s.timeout tx es ∧ t.events = s.events ++ es by
    obtain ⟨es, calls, events⟩ := made
    cases calls with
    | none => exact .inl (by simpa using events)
    | sent n le => exact .inr (.inl ⟨n, le, events⟩)
    | heard reply =>
      cases reply with
      | none => exact .inr (.inl ⟨_, le_refl _, events⟩)
      | header h => exact .inr (.inr (.inl ⟨h, frame, events⟩))
      | whole h b five => exact .inr (.inr (.inr ⟨h, b, frame, five, events⟩))
  subst htx
  simp only [List.mem_cons, Prod.mk.injEq, List.not_mem_nil, or_false, frame, false_and] at row
  rcases row with ⟨rfl, rfl, rfl, rfl⟩ | ⟨rfl, rfl, rfl, rfl⟩ | ⟨rfl, rfl, rfl, rfl⟩ | ⟨rfl, rfl, rfl, rfl⟩ |
    ⟨rfl, rfl, rfl, rfl⟩ | ⟨rfl, rfl, rfl, rfl⟩ | ⟨rfl, rfl, rfl, rfl⟩
  · dsimp only [exec, execE4wSend] at run
    exact runOp_oneTransaction run (e4wSend_oneTransaction _ _ _ s.begin)
  · dsimp only [exec, execSelectChannel] at run
    exact runOp_oneTransaction run (selectChannel_oneTransaction _ s.begin)
  · dsimp only [exec, execExitSession] at run
    exact runOp_oneTransaction run (exitSession_oneTransaction s.begin)
  · dsimp only [exec, execE4wDeviceInit] at run
    exact runOp_oneTransaction run (e4wSend_oneTransaction _ _ _ s.begin)
  · dsimp only [exec, execE4wDeviceRead] at run
    exact runOp_oneTransaction run (deviceReadRow_oneTransaction s.begin)
  · dsimp only [exec, execE4wDeviceWrite] at run
    exact runOp_oneTransaction run (e4wSend_oneTransaction _ _ _ s.begin)
  · dsimp only [exec, execE4wExit] at run
    exact runOp_oneTransaction run (e4wSend_oneTransaction _ _ _ s.begin)

end Sys2Proof.Machine
end

section
/-! SUPPORT. Rows that are one transaction, or a part of one, with a peer that acknowledges: the whole state each leaves, and what each is refused for (R100 to R106, R180, R191, R200, R202, R230). -/

namespace Sys2Proof.Machine

/-! ## Operations that are one acknowledged transaction -/

/-- An operation whose procedure is one transaction and which hands back `R_ACK` alone. -/
theorem runOp_transaction {op : BitVec 4} {body : State → Ret (List Byte)} {cmd : Byte} {addr : Half} {out : List Byte}
    {s : State} {r : Reply} {rest : List Reply} (hl : s.linkUp = true) (ho1 : 1 ≤ out.length) (ho2 : out.length ≤ 256)
    (ha : s.env.answers (r :: rest)) (h : body s.begin = e4wSend cmd addr out s.begin) :
    runOp op body ackOnly s = .next ((s.begin.afterTransaction cmd addr out r).endOp {} []) := by
  obtain ⟨sent, -⟩ := e4wSend_answered (s := s.begin) (cmd := cmd) (addr := addr) hl ho1 ho2 ha
  exact runOp_ok (h.trans sent)

/-- Settles O42: the transaction is made with `CHAN_VALID` cleared, and a select sets it at its end. -/
theorem selectAndExitComplete : Obligations.SelectAndExitComplete := by
  intro s r rest hl ha
  have answered : ∀ (cmd : Byte) (out : List Byte), out.length = 1 → e4wSend cmd 0x0000 out s.begin.clearChan =
      .ok r.payload (s.begin.clearChan.afterTransaction cmd 0x0000 out r) := fun cmd out one =>
    (e4wSend_answered (s := s.begin.clearChan) (rs := rest) hl (by omega) (by omega) ha).1
  constructor
  · have selected : selectChannel s.begin.opnd.chan s.begin = .ok () ((s.begin.clearChan.afterTransaction
        s.cfg.params.cmdDeviceInit 0x0000 [s.opnd.chan] r).setChan s.opnd.chan) :=
      congrArg (Ret.bind · _) (answered s.cfg.params.cmdDeviceInit [s.opnd.chan] rfl)
    dsimp only [exec, execSelectChannel]
    exact runOp_ok selected
  · have left : exitSession s.begin =
        .ok () (s.begin.clearChan.afterTransaction s.cfg.params.cmdExit 0x0000 [0x00] r) :=
      congrArg (Ret.bind · _) (answered s.cfg.params.cmdExit [0x00] rfl)
    dsimp only [exec, execExitSession]
    exact runOp_ok left

/-- A fetch that is acknowledged with 256 bytes (R230). -/
theorem Running.fetch {s t : State} {k : Nat} {es : List StreamEvent} {page : Nat → Byte} (h : Running s t k es page)
    {r : Reply} {rs : List Reply} (hl : s.linkUp = true) (hv : t.chanValid = true) (hp : r.payload.length = 256)
    (ha : (s.env.afterAnswers k).answers (r :: rs)) :
    ∃ u, Machine.fetch t = .ok () u ∧
      Running s u (k + 1) (es ++ fetchEvents t.seqStep s.cfg.params s.timeout r) (fetchedByte page r.payload) ∧
      SameChannel t u ∧ u.cached = true := by
  obtain ⟨tx, rx, fetched, -⟩ := fetch_answered (s := t) h.ack (h.linkUp.trans hl) hv hp (h.env ▸ ha)
  rw [h.cfg, h.timeout] at fetched
  exact ⟨_, fetched, ((((h.wire tx rx 1 _).inbuf r.payload).xfer 256).setMem
    (readByte_fetched h.mem r.payload)).setCached, ⟨rfl, rfl⟩, rfl⟩

/-- Settles O47: the fetch is the one transaction of the operation, and the end is read off the state it leaves. -/
theorem fetchCompletes : Obligations.FetchCompletes := by
  intro s r rest hl hv hp ha
  obtain ⟨t, fetched, h, channel, cached⟩ := (Running.begin s).fetch (rs := rest) hl hv hp
    ((Env.afterAnswers_zero s.env).symm ▸ ha)
  refine ⟨t.endOp { ack := t.res.ack } [], ?_, ⟨rfl, rfl, rfl⟩, ?_, rfl, cached, h.mem, h.events, h.env,
    ⟨h.cfg, h.timeout, h.opnd, h.outbuf, h.linkUp, h.fw, h.inputs⟩, channel⟩
  · dsimp only [exec, execFetch]
    exact runOp_ok fetched
  · show ({ ack := t.res.ack } : Results) = {}
    rw [h.ack]

/-! ## The length of one chunk (R102) -/

section
variable {s : State}

theorem oneChunk_empty (h : s.opnd.len.toNat = 0) : oneChunk s = raise .payloadEmpty s := if_pos h

theorem oneChunk_tooLong (h : 256 < s.opnd.len.toNat) : oneChunk s = raise .payloadTooLong s := by
  rw [oneChunk, if_neg (by omega), if_pos h]

theorem oneChunk_of (h1 : 1 ≤ s.opnd.len.toNat) (h2 : s.opnd.len.toNat ≤ 256) : oneChunk s = .ok s.opnd.len.toNat s := by
  rw [oneChunk, if_neg (by omega), if_neg (by omega)]

end

/-! ## The four transactions of R106 by themselves -/

/-- The row E4W_DEVICE_READ on an attached stream: the length byte of `A_LEN`, then the transaction. -/
theorem exec_deviceRead_linked {s : State} (hl : s.linkUp = true) :
    exec .e4wDeviceRead s =
      runOp 0x5 (fun t => (oneChunk t).bind fun n t => deviceRead t.opnd.addr n t) replyResult s := by
  have linked : ¬s.begin.linkUp = false := by rw [show s.begin.linkUp = true from hl]; simp
  dsimp only [exec, execE4wDeviceRead, runOp]
  rw [if_neg linked]

/-- A length without a length byte refuses the two rows that have one (R102, R181). -/
theorem requestRow_refused {i : Instr} {s : State} {e : Status} (hi : i = .e4wDeviceRead ∨ i = .e4wDeviceWrite)
    (hl : s.linkUp = true) (chunk : oneChunk s.begin = raise e s.begin)
    (send : e4wSend s.cfg.params.cmdDeviceWrite s.opnd.addr s.outBytes s.begin = raise e s.begin) :
    exec i s = .next (s.endOp { status := statusCode e } []) := by
  rcases hi with rfl | rfl
  · rw [exec_deviceRead_linked hl]
    exact runOp_refused (by rw [chunk, raise_bind])
  · dsimp only [exec, execE4wDeviceWrite]
    refine runOp_refused ?_
    exact send

/-- The row E4W_DEVICE_READ: the reply's payload, or the refusal of one of another length (R192). -/
theorem exec_deviceRead_answered {s : State} {r : Reply} {rest : List Reply} (hl : s.linkUp = true)
    (ha : s.env.answers (r :: rest)) (h1 : 1 ≤ s.opnd.len.toNat) (h2 : s.opnd.len.toNat ≤ 256) :
    exec .e4wDeviceRead s = .next
      ((s.begin.afterTransaction s.cfg.params.cmdDeviceRead s.opnd.addr [lenEnc s.opnd.len.toNat] r).endOp
        (if r.payload.length = s.opnd.len.toNat then { len := s.opnd.len } else { status := 0x11 })
        (if r.payload.length = s.opnd.len.toNat then r.payload else [])) := by
  obtain ⟨sent, -⟩ := e4wSend_answered (s := s.begin) (cmd := s.cfg.params.cmdDeviceRead) (addr := s.opnd.addr)
    (out := [lenEnc s.opnd.len.toNat]) hl (by simp) (by simp) ha
  generalize hu : s.begin.afterTransaction s.cfg.params.cmdDeviceRead s.opnd.addr [lenEnc s.opnd.len.toNat] r = u at sent
  have ack : u.res.ack = 0 := by rw [← hu]; rfl
  have read : (oneChunk s.begin).bind (fun n t => deviceRead t.opnd.addr n t) =
      if r.payload.length ≠ s.opnd.len.toNat then raise .lengthMismatch u else .ok r.payload u := by
    rw [oneChunk_of (s := s.begin) h1 h2, Ret.bind_ok]
    exact congrArg (Ret.bind · _) sent
  rw [exec_deviceRead_linked hl]
  by_cases hn : r.payload.length = s.opnd.len.toNat
  · rw [if_neg (not_not.2 hn)] at read
    have len : BitVec.ofNat 32 r.payload.length = s.opnd.len := by simp [hn]
    rw [if_pos hn, if_pos hn, runOp_ok read, replyResult, ack, len]
  · rw [if_pos hn] at read
    rw [if_neg hn, if_neg hn, runOp_raise read, raiseEntry_ack (by decide), ack]
    rfl

/-- Settles O34: the refusals of a length, then each row as the transaction of R106 it is. -/
theorem requestRows : Obligations.RequestRows := by
  refine ⟨fun i s hi hl => ⟨fun h => ?_, fun h => ?_⟩, fun s r rest hl ha => ⟨?_, ?_, fun h1 h2 => ⟨?_, ?_⟩⟩⟩
  · exact requestRow_refused hi hl (oneChunk_empty (s := s.begin) h)
      (e4wSend_empty (s := s.begin) hl (s.outBytes_length.trans h))
  · exact requestRow_refused hi hl (oneChunk_tooLong (s := s.begin) h)
      (e4wSend_tooLong (s := s.begin) hl (s.outBytes_length.symm ▸ h))
  · dsimp only [exec, execE4wDeviceInit]
    exact runOp_transaction (body := fun t => deviceInit t.opnd.chan t) hl (by simp) (by simp) ha rfl
  · dsimp only [exec, execE4wExit]
    exact runOp_transaction (body := bootloaderExit) hl (by simp) (by simp) ha rfl
  · dsimp only [exec, execE4wDeviceWrite]
    exact runOp_transaction (body := fun t => deviceWrite t.opnd.addr t.outBytes t) hl (by simpa using h1)
      (by simpa using h2) ha rfl
  · exact exec_deviceRead_answered hl ha h1 h2

/-! ## Frames by themselves -/

/-- The end of an operation forgets the packet buffers, the handshake bits and what the result registers held. -/
theorem State.endOp_eq {s t : State} {env : Env} {events : List StreamEvent} (host : SameHost s t) (mem : t.mem = s.mem)
    (cached : t.cached = s.cached) (channel : SameChannel s t) (henv : t.env = env) (hevents : t.events = events)
    (r : Results) (bs : List Byte) : t.endOp r bs = { s with env := env, events := events }.endOp r bs := by
  obtain ⟨cfg, timeout, opnd, outbuf, linkUp, fw, inputs⟩ := host
  obtain ⟨chanValid, chan⟩ := channel
  simp only [State.endOp, *]

/-- The row E4W_REQUEST_FRAME: one write, short or whole (R182, R183). -/
theorem exec_requestFrame {s : State} {n : Nat} {ns : List Nat} (hl : s.linkUp = true) (h1 : 1 ≤ s.opnd.len.toNat)
    (h2 : s.opnd.len.toNat ≤ 256) (hab : s.env.abandon = []) (hacc : s.env.accepts = n :: ns) :
    exec .e4wRequestFrame s = .next
      ({ s with
          env := { s.env with accepts := ns }
          events := s.events ++
            [StreamEvent.write 0 (e4wRequest s.cfg.params (lowByte s.opnd.cmd) s.opnd.addr s.outBytes)
              (min n (7 + s.opnd.len.toNat))] }.endOp
        { status := if n < 7 + s.opnd.len.toNat then 0x14 else 0x00 } []) := by
  obtain ⟨t, sent, put⟩ := e4wPut_scripted (s := s.begin) (cmd := lowByte s.opnd.cmd) (addr := s.opnd.addr)
    (out := s.outBytes) hl (by simpa using h1) (by simpa using h2) hab hacc
  have kept := transactionRel.e4wPut (lowByte s.opnd.cmd) s.opnd.addr s.outBytes s.begin
  rw [State.outBytes_length] at sent put
  rw [put] at kept
  have ack : t.res.ack = 0 := congrArg Results.ack sent.res
  dsimp only [exec, execE4wRequestFrame]
  by_cases short : n < 7 + s.opnd.len.toNat
  · rw [if_pos short] at put kept ⊢
    obtain ⟨-, -, -, chanValid, chan, mem, cached⟩ := kept
    refine (runOp_raise (t := t) (e := .shortWrite) put).trans ?_
    rw [raiseEntry_ack (by decide), ack]
    exact congrArg Host.Outcome.next (State.endOp_eq (s := s) sent.host mem cached ⟨chanValid, chan⟩ sent.env sent.events _ _)
  · rw [if_neg short] at put kept ⊢
    obtain ⟨-, -, -, chanValid, chan, mem, cached⟩ := kept
    refine (runOp_ok (a := ()) (t := t) put).trans ?_
    rw [ackOnly, ack]
    exact congrArg Host.Outcome.next (State.endOp_eq (s := s) sent.host mem cached ⟨chanValid, chan⟩ sent.env sent.events _ _)

/-- The row E4W_LENGTH_BYTE on a length that has one. -/
theorem exec_lengthByte {s : State} (h1 : 1 ≤ s.opnd.len.toNat) (h2 : s.opnd.len.toNat ≤ 256) :
    exec .e4wLengthByte s = .next (s.endOp { len := 1 } [lenEnc s.opnd.len.toNat]) := by
  dsimp only [exec, execE4wLengthByte]
  refine runOp_ok (a := [lenEnc s.opnd.len.toNat]) (t := s.begin) ?_
  rw [oneChunk_of (s := s.begin) h1 h2]
  rfl

/-- The two rows a length without a length byte refuses. -/
theorem frameRow_refused {i : Instr} {s : State} {e : Status}
    (hi : i = .e4wLengthByte ∨ i = .e4wRequestFrame ∧ s.linkUp = true) (chunk : oneChunk s.begin = raise e s.begin)
    (put : s.linkUp = true → e4wPut (lowByte s.opnd.cmd) s.opnd.addr s.outBytes s.begin = raise e s.begin) :
    exec i s = .next (s.endOp { status := statusCode e } []) := by
  rcases hi with rfl | ⟨rfl, hl⟩
  · dsimp only [exec, execE4wLengthByte]
    exact runOp_refused (by rw [chunk, raise_bind])
  · dsimp only [exec, execE4wRequestFrame]
    refine runOp_refused ?_
    exact put hl

/-- The row E4W_REPLY_FRAME on an attached stream: the reply alone. -/
theorem exec_replyFrame_linked {s : State} (hl : s.linkUp = true) :
    exec .e4wReplyFrame s = runOp 0x5 e4wReply replyResult s := by
  have linked : ¬s.begin.linkUp = false := by rw [show s.begin.linkUp = true from hl]; simp
  dsimp only [exec, execE4wReplyFrame, runOp]
  rw [if_neg linked]

/-- A reply with a good checksum, heard in two reads and checked (R101, R103). -/
theorem e4wReply_heard {s : State} {r : Reply} {a : Byte} {xs : List (List Byte)} (hr : r.wf) (hab : s.env.abandon = [])
    (hline : s.env.line = []) (harr : s.env.arrivals = r.head :: r.tail a :: xs) :
    ∃ u, Heard s u [.read s.seqStep 5 s.timeout r.head, .read s.seqStep (r.payload.length + 3) s.timeout (r.tail a)]
        { s.env with arrivals := xs } ∧
      e4wReply s = if a = 0 then .ok r.payload (u.setAck 0) else raise .commandError (u.setAck a) := by
  obtain ⟨t, u, -, heard, reply⟩ := e4wReply_scripted (h := r.head) (l := r.tail a) (b := r.tail a) hab harr
    (by simp [hline]) (by simp [hline])
    (by simp [r.head_declared hr, List.take_of_length_le])
  have drained : (r.tail a).drop (r.payload.length + 3) = s.env.line := by simp [hline, List.drop_of_length_le]
  rw [r.head_declared hr] at heard reply
  rw [drained] at heard
  rw [if_neg (by simp), if_neg (by simp), e4wCheck_reply r a hr] at reply
  exact ⟨u, heard, reply⟩

/-- The row E4W_REPLY_FRAME on a reply with a good checksum (R101, R103, R185). -/
theorem exec_replyFrame {s : State} {r : Reply} {a : Byte} {xs : List (List Byte)} (hl : s.linkUp = true) (hr : r.wf)
    (hab : s.env.abandon = []) (hline : s.env.line = []) (harr : s.env.arrivals = r.head :: r.tail a :: xs) :
    exec .e4wReplyFrame s = .next
      ({ s with
          env := { s.env with arrivals := xs }
          events := s.events ++
            [StreamEvent.read 0 5 s.timeout r.head, .read 0 (r.payload.length + 3) s.timeout (r.tail a)] }.endOp
        (if a = 0x00 then { len := BitVec.ofNat 32 r.payload.length } else { status := 0x20, ack := a })
        (if a = 0x00 then r.payload else [])) := by
  obtain ⟨u, heard, reply⟩ := e4wReply_heard (s := s.begin) hr hab hline harr
  have kept := transactionRel.e4wReply s.begin
  rw [reply] at kept
  rw [exec_replyFrame_linked hl]
  by_cases ha : a = 0
  · rw [if_pos ha] at reply kept
    obtain ⟨-, -, -, chanValid, chan, mem, cached⟩ := kept
    rw [if_pos ha, if_pos ha, runOp_ok reply]
    exact congrArg Host.Outcome.next
      (State.endOp_eq (s := s) heard.host mem cached ⟨chanValid, chan⟩ heard.env heard.events _ _)
  · rw [if_neg ha] at reply kept
    obtain ⟨-, -, -, chanValid, chan, mem, cached⟩ := kept
    rw [if_neg ha, if_neg ha, runOp_raise reply, raiseEntry_ack (by decide)]
    exact congrArg Host.Outcome.next
      (State.endOp_eq (s := s) heard.host mem cached ⟨chanValid, chan⟩ heard.env heard.events _ _)

/-- Settles O36: each row and each refusal is a lemma of its own. -/
theorem frameRows : Obligations.FrameRows := by
  refine ⟨fun s n ns hl h1 h2 hab hacc => exec_requestFrame hl h1 h2 hab hacc, fun s h1 h2 => exec_lengthByte h1 h2,
    fun i s hi => ⟨fun h => ?_, fun h => ?_⟩,
    fun s r a xs hl hr hab hline harr => exec_replyFrame hl hr hab hline harr⟩
  · exact frameRow_refused hi (oneChunk_empty (s := s.begin) h) fun hl =>
      e4wPut_empty (s := s.begin) hl (s.outBytes_length.trans h)
  · exact frameRow_refused hi (oneChunk_tooLong (s := s.begin) h) fun hl =>
      e4wPut_tooLong (s := s.begin) hl (s.outBytes_length.symm ▸ h)

end Sys2Proof.Machine
end

section
/-! SUPPORT. The rows that set a field of the sequencer's own (R112, R113, R232, R263, R264, R267, R268; log entry 21): what each writes, with a write back that is acknowledged or not, and what each is refused for. -/

namespace Sys2Proof.Machine

/-! ## The field and the value of a row -/

/-- From `s`, instruction `i` is SET_FIELD's procedure on the entry `e` and a value whose encoding there is `raw` (R232). -/
structure Sets (i : Instr) (e : FieldEntry) (raw : List Byte) (s : State) (v : Value) : Prop where
  coded : encodeValue s.cfg.params.strPad e.width e.codec v = .ok raw
  ok : ∀ t, setField e v s.begin = .ok () t → exec i s = .next (t.endOp { ack := t.res.ack } [])
  raised : ∀ x t, setField e v s.begin = raise x t →
    exec i s = .next (t.endOp { status := statusCode x, ack := t.res.ack } [])

/-- A row of the sequencer's own sets the field that `field` names. -/
theorem Sets.of_row {i : Instr} {field : Params → Byte} {v : Value} {e : FieldEntry} {raw : List Byte} {s : State}
    (he : s.cfg.params.find (field s.cfg.params) = some e)
    (coded : encodeValue s.cfg.params.strPad e.width e.codec v = .ok raw)
    (row : exec i s = runOp 0xA (fun t => setOwnField (field t.cfg.params) v t) ackOnly s) : Sets i e raw s v := by
  have body : (fun t : State => setOwnField (field t.cfg.params) v t) s.begin = setField e v s.begin :=
    congrArg (Ret.bind · _) (lookup_of (s := s.begin) he)
  refine ⟨coded, fun t h => ?_, fun x t h => ?_⟩
  · rw [row]
    exact runOp_ok (body.trans h)
  · rw [row]
    exact (runOp_raise (body.trans h)).trans (congrArg _ (raiseEntry_ack (by decide) x t))

/-- The four rows and the bytes each puts into its field (R112, R113). -/
theorem ownFieldRow_sets {i : Instr} {f : Byte} {raw : List Byte} {e : FieldEntry} {s : State}
    (row : (i, f, raw) ∈
      [(Instr.markerInvalid, s.cfg.params.fMarker, [(0x00 : Byte)]), (.markerValid, s.cfg.params.fMarker, [0x01]),
       (.diagFlashFail, s.cfg.params.fName, flashFailText ++ [s.cfg.params.strPad, s.cfg.params.strPad]),
       (.diagNotReady, s.cfg.params.fName,
         notReadyText ++ [s.cfg.params.strPad, s.cfg.params.strPad, s.cfg.params.strPad])])
    (he : s.cfg.params.find f = some e) : ∃ v, Sets i e raw s v := by
  obtain ⟨⟨m, hm, -⟩, -, -, ⟨d, hd, -⟩⟩ := own_fields_present s.cfg
  obtain ⟨invalid, valid, fail, notReady⟩ := own_values hm hd
  simp only [List.mem_cons, Prod.mk.injEq, List.not_mem_nil, or_false] at row
  rcases row with ⟨rfl, rfl, rfl⟩ | ⟨rfl, rfl, rfl⟩ | ⟨rfl, rfl, rfl⟩ | ⟨rfl, rfl, rfl⟩
  · obtain rfl : m = e := Option.some.inj (hm.symm.trans he)
    exact ⟨_, .of_row (field := Params.fMarker) he invalid rfl⟩
  · obtain rfl : m = e := Option.some.inj (hm.symm.trans he)
    exact ⟨_, .of_row (field := Params.fMarker) he valid rfl⟩
  · obtain rfl : d = e := Option.some.inj (hd.symm.trans he)
    exact ⟨_, .of_row (field := Params.fName) he fail rfl⟩
  · obtain rfl : d = e := Option.some.inj (hd.symm.trans he)
    exact ⟨_, .of_row (field := Params.fName) he notReady rfl⟩

/-! ## The edit of a field -/

section
variable {i : Byte} {e : FieldEntry} {v : Value} {raw : List Byte} {s : State}

theorem setField_down (coded : encodeValue s.cfg.params.strPad e.width e.codec v = .ok raw) (hl : s.linkUp = false) :
    setField e v s = raise .notConnected s := by
  rw [setField, coded]
  exact if_pos hl

theorem setField_noChannel (coded : encodeValue s.cfg.params.strPad e.width e.codec v = .ok raw)
    (hl : s.linkUp = true) (hv : s.chanValid = false) : setField e v s = raise .noChannel s := by
  rw [setField, coded]
  exact (if_neg (by simp [hl])).trans (if_pos hv)

/-- On a ready stream the field is edited in a populated mirror and the page written back (R232, R233). -/
theorem setField_ready (he : s.cfg.params.find i = some e)
    (coded : encodeValue s.cfg.params.strPad e.width e.codec v = .ok raw) (hl : s.linkUp = true)
    (hv : s.chanValid = true) :
    setField e v s = (fetchIfAbsent s).bind fun _ t => writeBack (t.setMem (writeBytes t.mem e.offset raw)) := by
  have width := encodeValue_length coded
  have fits := (find_range he).2
  rw [setField, coded]
  simp only [ofExcept, Ret.bind_ok]
  rw [if_neg (by simp [hl]), if_neg (by simp [hv])]
  refine congrArg (Ret.bind _) (funext fun _ => funext fun t => ?_)
  rw [mutate, memWrite, if_pos (by omega), Ret.bind_ok]

end

/-- A write back leaves the mirror as it is, and nothing abandons it. -/
theorem writeBack_outcome {s : State} (hab : s.env.abandon = []) :
    (∃ t, writeBack s = .ok () t ∧ SameCache s t) ∨ ∃ x t, writeBack s = raise x t ∧ SameCache s t := by
  have kept : SameCache s (writeBack s).state :=
    sameCache_rel.of_bind (sameCache_rel.memRead 0 256 s) fun _ t _ => sameCache_rel.writeFlash _ _ t
  cases h : writeBack s with
  | ok a t =>
    rw [h] at kept
    exact .inl ⟨t, rfl, kept⟩
  | stop x t =>
    rw [h] at kept
    cases x with
    | raised x => exact .inr ⟨x, t, rfl, kept⟩
    | abandoned => exact absurd h ((writeBack_ran s).not_abandoned hab)
    | broken f => exact absurd rfl ((writeBack_stops s).faultless _ _ h f)

/-- A populated mirror, or one the peer fills: what the edit of a field starts from (R22, R230). -/
theorem fetchIfAbsent_page {s : State} {q : Option Reply} {rest : List Reply} {page : Nat → Byte} (hl : s.linkUp = true)
    (hv : s.chanValid = true) (hc : s.cached = q.isNone) (hq : ∀ x ∈ q, x.payload.length = 256)
    (hpage : page = q.elim (readByte s.mem) (fun x => fetchedByte (readByte s.mem) x.payload))
    (ha : ∀ x ∈ q, s.env.answers (x :: rest)) :
    ∃ t, fetchIfAbsent s.begin = .ok () t ∧ t.cached = true ∧ ∀ a, readByte t.mem a = page a := by
  subst hpage
  cases q with
  | none => exact ⟨s.begin, fetchIfAbsent_cached (s := s.begin) hc, hc, fun _ => rfl⟩
  | some x =>
    obtain ⟨t, fetched, running, -, cached⟩ := (Running.begin s).fetch hl hv (hq x rfl)
      ((Env.afterAnswers_zero s.env).symm ▸ ha x rfl)
    have empty : s.begin.cached ≠ true := by rw [show s.begin.cached = false from hc]; simp
    exact ⟨t, (if_neg empty).trans fetched, cached, running.mem⟩

/-! ## The rows -/

namespace Sets

variable {i : Instr} {f : Byte} {e : FieldEntry} {raw : List Byte} {s : State} {v : Value}

/-- The row with a peer that acknowledges: a fetch if the mirror was empty, and the page (R22, R232). -/
theorem completes (h : Sets i e raw s v) (he : s.cfg.params.find f = some e) {q : Option Reply} {r : Reply}
    {rest : List Reply} {page : Nat → Byte} (hl : s.linkUp = true) (hv : s.chanValid = true)
    (hc : s.cached = q.isNone) (hq : ∀ x ∈ q, x.payload.length = 256)
    (hpage : page = q.elim (readByte s.mem) (fun x => fetchedByte (readByte s.mem) x.payload))
    (ha : s.env.answers (q.toList ++ r :: rest)) :
    ∃ t, exec i s = .next (t.endOp { ack := t.res.ack } []) ∧
      Running s t (q.toList.length + 1) (q.toList.flatMap (fetchEvents 0 s.cfg.params s.timeout) ++
        pageEvents 0 s.cfg.params s.timeout (pageBytes (editedByte page e raw)) r) (editedByte page e raw) ∧
      SameChannel s t ∧ t.cached = true := by
  have answers := (Env.afterAnswers_zero s.env).symm ▸ ha
  cases q with
  | none =>
    obtain rfl : page = readByte s.mem := hpage
    obtain ⟨t, edited, running, chanValid, chan, cached, -⟩ :=
      (Running.begin s).edit hl (t := s.begin) hv hc he h.coded answers
    rw [State.begin_seqStep, Nat.zero_add] at running
    exact ⟨t, h.ok t edited, running, ⟨chanValid, chan⟩, cached⟩
  | some x =>
    obtain rfl : page = fetchedByte (readByte s.mem) x.payload := hpage
    obtain ⟨t, edited, running, chanValid, chan, cached, -⟩ :=
      (Running.begin s).fetchEdit hl (t := s.begin) hv hc he h.coded (hq x rfl) answers
    rw [State.begin_seqStep, List.nil_append, Nat.zero_add] at running
    refine ⟨t, h.ok t edited, ?_, ⟨chanValid, chan⟩, cached⟩
    rw [Option.toList_some, List.flatMap_singleton]
    exact running

/-- Whatever becomes of the write back, the edit stays in the mirror (R233, R237). -/
theorem edits (h : Sets i e raw s v) (he : s.cfg.params.find f = some e) (hl : s.linkUp = true)
    (hv : s.chanValid = true) (hab : s.env.abandon = []) {t : State} {page : Nat → Byte}
    (populated : fetchIfAbsent s.begin = .ok () t) (cached : t.cached = true) (mem : ∀ a, readByte t.mem a = page a) :
    ∃ u, exec i s = .next u ∧ u.cached = true ∧ ∀ a, readByte u.mem a = editedByte page e raw a := by
  have undisturbed : t.env.abandon = [] := by
    have run := (fetchIfAbsent_ran s.begin).run
    rw [populated] at run
    exact undisturbed_rel.of_run run hab
  have edited := readByte_mutate mem e (encodeValue_length h.coded)
  have body : setField e v s.begin = writeBack (t.setMem (writeBytes t.mem e.offset raw)) := by
    rw [setField_ready (s := s.begin) he h.coded hl hv, populated, Ret.bind_ok]
  rcases writeBack_outcome (s := t.setMem (writeBytes t.mem e.offset raw)) undisturbed with
    ⟨u, wrote, sameCached, sameMem⟩ | ⟨x, u, wrote, sameCached, sameMem⟩
  · exact ⟨_, h.ok u (body.trans wrote), sameCached.trans cached, fun a => (sameMem a).trans (edited a)⟩
  · exact ⟨_, h.raised x u (body.trans wrote), sameCached.trans cached, fun a => (sameMem a).trans (edited a)⟩

/-- A fetch that fails ends the row as it ends FETCH (R230, R302). -/
theorem fails_as_fetch (h : Sets i e raw s v) (he : s.cfg.params.find f = some e) (empty : s.cached = false)
    (hab : s.env.abandon = []) {u : State} (run : exec .fetch s = .next u) (failed : u.res.status ≠ 0) :
    exec i s = .next u := by
  dsimp only [exec, execFetch] at run
  obtain ⟨x, t, fetched, entry⟩ : ∃ x t, fetch s.begin = raise x t ∧ u = raiseEntry 0x8 x t := by
    rcases runOp_cases 0x8 fetch ackOnly s with ⟨a, t, -, eq⟩ | ⟨x, t, fetched, eq⟩ | ⟨t, fetched, -⟩ | ⟨g, t, -, eq⟩
    · rw [eq] at run
      cases run
      exact absurd rfl failed
    · rw [eq] at run
      cases run
      exact ⟨x, t, fetched, rfl⟩
    · exact absurd fetched ((fetch_ran s.begin).not_abandoned hab)
    · rw [eq] at run
      cases run
  rw [entry, raiseEntry_ack (by decide)]
  refine h.raised x t ?_
  by_cases hl : s.linkUp = false
  · rw [← fetched, fetch_down (s := s.begin) hl]
    exact setField_down (s := s.begin) h.coded hl
  have linked : s.linkUp = true := by simpa using hl
  by_cases hv : s.chanValid = false
  · rw [← fetched, fetch, readFlash, admitTransfer_noChannel (s := s.begin) linked hv]
    exact setField_noChannel (s := s.begin) h.coded linked hv
  have absent : s.begin.cached ≠ true := by rw [show s.begin.cached = false from empty]; simp
  rw [setField_ready (s := s.begin) he h.coded linked (by simpa using hv), fetchIfAbsent, if_neg absent, fetched, raise_bind]

/-- Without a stream or a channel nothing is touched (R204). -/
theorem refused (h : Sets i e raw s v) {x : Status} (begun : setField e v s.begin = raise x s.begin) :
    exec i s = .next (s.endOp { status := statusCode x } []) := h.raised x _ begun

end Sets

end Sys2Proof.Machine

namespace Sys2Proof

open Machine

/-- Settles O54: each row sets a field of the table, and each claim is a lemma about the setting of one. -/
theorem ownFieldRows : Obligations.OwnFieldRows := by
  intro i f raw e s row he
  obtain ⟨v, sets⟩ := ownFieldRow_sets row he
  refine ⟨fun q r rest page hl hv hc hq hpage ha => ?_, fun q page hl hv hc hab hq hpage => ?_,
    fun u empty hab run failed => sets.fails_as_fetch he empty hab run failed, fun hl => ?_, fun hl hv => ?_⟩
  · obtain ⟨t, run, h, channel, cached⟩ := sets.completes he hl hv hc hq hpage ha
    refine ⟨_, run, ⟨rfl, rfl, rfl⟩, ?_, rfl, cached, h.mem, ?_, h.env,
      ⟨h.cfg, h.timeout, h.opnd, h.outbuf, h.linkUp, h.fw, h.inputs⟩, channel⟩
    · show ({ ack := t.res.ack } : Results) = {}
      rw [h.ack]
    · rw [List.append_assoc]
      exact h.events
  · obtain ⟨t, populated, cached, mem⟩ := fetchIfAbsent_page (rest := []) hl hv hc (fun x hx => (hq x hx).1) hpage
      fun x hx => (hq x hx).2
    exact sets.edits he hl hv hab populated cached mem
  · exact sets.refused (setField_down (s := s.begin) sets.coded hl)
  · exact sets.refused (setField_noChannel (s := s.begin) sets.coded hl hv)

end Sys2Proof
end

section
/-! SUPPORT. The checksums (40_checksum.md). A step exclusive-ors a byte into the register and then carries out eight rounds. The rounds respect exclusive-or, and where the polynomial keeps the bit shifted out they can be undone; what holds of a whole run of bytes follows from these two facts (`Additive`, `Reversible`), whichever the checksum. -/

namespace Sys2Proof.Machine

variable {v w : Nat}

/-! ## Maps that respect exclusive-or -/

/-- The map respects exclusive-or. -/
def XorLinear (f : BitVec v → BitVec w) : Prop := ∀ a b, f (a ^^^ b) = f a ^^^ f b

theorem XorLinear.map_zero {f : BitVec v → BitVec w} (h : XorLinear f) : f 0 = 0 := by
  simpa using h 0 0

/-- Two arguments with the same value differ by one whose value is 0. -/
theorem XorLinear.injective {f : BitVec v → BitVec w} (h : XorLinear f) (kernel : ∀ c, f c = 0 → c = 0) :
    f.Injective := by
  intro a b eq
  have differ : f (a ^^^ b) = 0 := by rw [h, eq]; exact BitVec.xor_self
  exact BitVec.xor_eq_zero_iff.mp (kernel _ differ)

theorem XorLinear.rounds {f : BitVec w → BitVec w} (h : XorLinear f) : XorLinear (rounds f) := by
  intro a b
  simp only [Machine.rounds, h _ _]

theorem rounds_injective {f : BitVec w → BitVec w} (h : f.Injective) : (rounds f).Injective :=
  h.comp (h.comp (h.comp (h.comp (h.comp (h.comp (h.comp h))))))

theorem rounds_eq_repeat (f : BitVec w → BitVec w) (c : BitVec w) : rounds f c = Nat.repeat f 8 c := rfl

/-! ## One round -/

/-- A round to the left, in a register of any width: `crc8Round` and `crc16xRound` are its cases. -/
def leftRound (poly c : BitVec w) : BitVec w := if c.getLsbD (w - 1) then (c <<< 1) ^^^ poly else c <<< 1

/-- A round to the right: `crc16rRound` is its case. -/
def rightRound (poly c : BitVec w) : BitVec w := if c.getLsbD 0 then (c >>> 1) ^^^ poly else c >>> 1

theorem crc8Round_eq (poly : Byte) : crc8Round poly = leftRound poly := rfl
theorem crc16xRound_eq : crc16xRound = leftRound 0x1021 := rfl
theorem crc16rRound_eq : crc16rRound = rightRound 0xA001 := rfl

theorem leftRound_of_clear {poly c : BitVec w} (h : c.getLsbD (w - 1) = false) : leftRound poly c = c <<< 1 := by
  simp [leftRound, h]

theorem rightRound_of_clear {poly c : BitVec w} (h : c.getLsbD 0 = false) : rightRound poly c = c >>> 1 := by
  simp [rightRound, h]

theorem leftRound_zero (c : BitVec w) : leftRound (0#w) c = c <<< 1 := by simp [leftRound]

/-- Where the polynomial is added on both sides it cancels. -/
theorem XorLinear.toggle {f : BitVec w → BitVec w} (h : XorLinear f) (poly : BitVec w) (i : Nat) :
    XorLinear fun c => if c.getLsbD i then f c ^^^ poly else f c := by
  intro a b
  have cancel : f a ^^^ poly ^^^ (f b ^^^ poly) = f a ^^^ f b := by
    rw [BitVec.xor_comm (f b), ← BitVec.xor_assoc, BitVec.xor_assoc (f a), BitVec.xor_self, BitVec.xor_zero]
  cases ha : a.getLsbD i <;> cases hb : b.getLsbD i <;> simp only [BitVec.getLsbD_xor, ha, hb, h a b]
  case false.false => rfl
  case false.true => exact BitVec.xor_assoc ..
  case true.false => simp only [Bool.true_xor, Bool.not_false, if_true]; ac_rfl
  case true.true => exact cancel.symm

theorem leftRound_linear (poly : BitVec w) : XorLinear (leftRound poly) :=
  XorLinear.toggle (fun a b => BitVec.shiftLeft_xor_distrib a b 1) poly (w - 1)

theorem rightRound_linear (poly : BitVec w) : XorLinear (rightRound poly) :=
  XorLinear.toggle (fun a b => BitVec.ushiftRight_xor_distrib a b 1) poly 0

/-- Bit 0 of the result is the bit shifted out, so none is lost. -/
theorem leftRound_injective {poly : BitVec w} (odd : poly.getLsbD 0 = true) : (leftRound poly).Injective := by
  have pos : 0 < w := BitVec.lt_of_getLsbD odd
  refine (leftRound_linear poly).injective fun c zero => ?_
  have top : c.getLsbD (w - 1) = false := by
    by_contra lost
    rw [leftRound, if_pos (by simpa using lost)] at zero
    have bit := congrArg (·.getLsbD 0) zero
    simp [odd] at bit
  rw [leftRound_of_clear top] at zero
  refine BitVec.eq_of_getLsbD_eq fun i hi => ?_
  by_cases last : i = w - 1
  · simp [last, top]
  · have bit := congrArg (·.getLsbD (i + 1)) zero
    simpa [BitVec.getLsbD_shiftLeft, hi, show i + 1 < w by omega] using bit

/-- The top bit of the result is the bit shifted out. -/
theorem rightRound_injective {poly : BitVec w} (top : poly.getLsbD (w - 1) = true) : (rightRound poly).Injective := by
  have pos : w - 1 < w := BitVec.lt_of_getLsbD top
  refine (rightRound_linear poly).injective fun c zero => ?_
  have low : c.getLsbD 0 = false := by
    by_contra lost
    rw [rightRound, if_pos (by simpa using lost)] at zero
    have bit := congrArg (·.getLsbD (w - 1)) zero
    simp [BitVec.getLsbD_ushiftRight, top, show 1 + (w - 1) = w by omega] at bit
  rw [rightRound_of_clear low] at zero
  refine BitVec.eq_of_getLsbD_eq fun i hi => ?_
  cases i with
  | zero => simp [low]
  | succ i =>
    have bit := congrArg (·.getLsbD i) zero
    simpa [BitVec.getLsbD_ushiftRight, Nat.add_comm 1] using bit

/-! ## Rounds that only shift -/

theorem repeat_leftRound {poly c : BitVec w} {n : Nat} (clear : ∀ i < n, c.getLsbD (w - 1 - i) = false) :
    Nat.repeat (leftRound poly) n c = c <<< n := by
  induction n with
  | zero => simp [Nat.repeat]
  | succ n ih =>
    have top : (c <<< n).getLsbD (w - 1) = false := by
      simp [BitVec.getLsbD_shiftLeft, clear n (by omega)]
    rw [Nat.repeat, ih fun i hi => clear i (by omega), leftRound_of_clear top, BitVec.shiftLeft_add]

theorem repeat_rightRound {poly c : BitVec w} {n : Nat} (clear : ∀ i < n, c.getLsbD i = false) :
    Nat.repeat (rightRound poly) n c = c >>> n := by
  induction n with
  | zero => simp [Nat.repeat]
  | succ n ih =>
    have low : (c >>> n).getLsbD 0 = false := by
      simp [BitVec.getLsbD_ushiftRight, clear n (by omega)]
    rw [Nat.repeat, ih fun i hi => clear i (by omega), rightRound_of_clear low, BitVec.shiftRight_add]

/-! ## A run of bytes -/

/-- A step that respects exclusive-or in the register and the byte together. -/
def Additive (step : BitVec w → Byte → BitVec w) : Prop :=
  ∀ c d x y, step (c ^^^ d) (x ^^^ y) = step c x ^^^ step d y

/-- A step of which the register and the byte can each be told from the result and the other one. -/
structure Reversible (step : BitVec w → Byte → BitVec w) : Prop where
  register : ∀ x, Function.Injective fun c => step c x
  byte : ∀ c, Function.Injective (step c)

theorem Additive.of_linear {f : BitVec w → BitVec w} {e : Byte → BitVec w} (hf : XorLinear f) (he : XorLinear e) :
    Additive fun c x => f (c ^^^ e x) := by
  intro c d x y
  show f (c ^^^ d ^^^ e (x ^^^ y)) = f (c ^^^ e x) ^^^ f (d ^^^ e y)
  rw [he, ← hf]
  congr 1
  ac_rfl

theorem Reversible.of_injective {f : BitVec w → BitVec w} {e : Byte → BitVec w} (hf : f.Injective)
    (he : e.Injective) : Reversible fun c x => f (c ^^^ e x) where
  register x _ _ eq := (BitVec.xor_left_inj (e x)).mp (hf eq)
  byte c _ _ eq := he ((BitVec.xor_right_inj c).mp (hf eq))

section
variable {step : BitVec w → Byte → BitVec w}

theorem Additive.foldl_xorBytes (h : Additive step) {a b : List Byte} (same : a.length = b.length) (c d : BitVec w) :
    (xorBytes a b).foldl step (c ^^^ d) = a.foldl step c ^^^ b.foldl step d := by
  induction a generalizing b c d with
  | nil =>
    obtain rfl : b = [] := List.length_eq_zero_iff.mp same.symm
    rfl
  | cons x xs ih =>
    cases b with
    | nil => simp at same
    | cons y ys =>
      simp only [List.length_cons, Nat.add_right_cancel_iff] at same
      show (xorBytes xs ys).foldl step (step (c ^^^ d) (x ^^^ y)) = _
      rw [h, ih same]
      rfl

theorem Additive.foldl_zeros (h : Additive step) (n : Nat) : (List.replicate n (0 : Byte)).foldl step 0 = 0 := by
  have zero : step 0 0 = 0 := by simpa using h 0 0 0 0
  induction n with
  | zero => rfl
  | succ n ih => rw [List.replicate_succ, List.foldl_cons, zero, ih]

theorem Additive.foldl_leading_zeros (h : Additive step) (n : Nat) (a : List Byte) :
    (List.replicate n 0 ++ a).foldl step 0 = a.foldl step 0 := by
  rw [List.foldl_append, h.foldl_zeros]

theorem Reversible.foldl_injective (h : Reversible step) (data : List Byte) :
    Function.Injective fun c => data.foldl step c := by
  induction data with
  | nil => exact fun _ _ eq => eq
  | cons x xs ih => exact ih.comp (h.register x)

/-- Once the registers of the two runs differ they differ to the end. -/
theorem Reversible.foldl_set_ne (h : Reversible step) {data : List Byte} {k : Nat} (hk : k < data.length) {x : Byte}
    (changed : x ≠ data[k]) (c : BitVec w) : (data.set k x).foldl step c ≠ data.foldl step c := by
  induction data generalizing k c with
  | nil => simp at hk
  | cons y ys ih =>
    cases k with
    | zero => exact fun eq => changed (h.byte c (h.foldl_injective ys eq))
    | succ k => exact ih (by simpa using hk) changed (step c y)

theorem Reversible.foldl_flipBit_ne (h : Reversible step) {data : List Byte} {k b : Nat} (hk : k < data.length)
    (hb : b < 8) (c : BitVec w) : (flipBit data k b).foldl step c ≠ data.foldl step c := by
  refine h.foldl_set_ne hk (fun same => ?_) c
  have bit := congrArg (·.getLsbD b) same
  simp [hk, hb] at bit

end

/-! ## The three checksums -/

theorem setWidth_linear : XorLinear (BitVec.setWidth 16 : Byte → Half) := fun _ _ => BitVec.setWidth_xor

theorem highHalf_linear : XorLinear (fun x : Byte => x.setWidth 16 <<< 8) := fun x y => by
  simp only [BitVec.setWidth_xor, BitVec.shiftLeft_xor_distrib]

theorem setWidth_injective : Function.Injective (BitVec.setWidth 16 : Byte → Half) := fun x y eq => by
  simpa using congrArg (BitVec.setWidth 8) eq

theorem highHalf_injective : Function.Injective (fun x : Byte => (x.setWidth 16 <<< 8 : Half)) :=
  fun x y (eq : x.setWidth 16 <<< 8 = y.setWidth 16 <<< 8) => BitVec.eq_of_getLsbD_eq fun i hi => by
    have bit := congrArg (·.getLsbD (8 + i)) eq
    simpa [BitVec.getLsbD_shiftLeft, show 8 + i < 16 by omega] using bit

theorem crc8Byte_additive (poly : Byte) : Additive (crc8Byte poly) :=
  .of_linear (leftRound_linear poly).rounds (e := id) fun _ _ => rfl

theorem crc16xByte_additive : Additive crc16xByte := .of_linear (leftRound_linear 0x1021).rounds highHalf_linear

theorem crc16rByte_additive : Additive crc16rByte := .of_linear (rightRound_linear 0xA001).rounds setWidth_linear

theorem crc8Byte_reversible {poly : Byte} (odd : poly.getLsbD 0 = true) : Reversible (crc8Byte poly) :=
  .of_injective (rounds_injective (leftRound_injective odd)) Function.injective_id

theorem crc16xByte_reversible : Reversible crc16xByte :=
  .of_injective (rounds_injective (leftRound_injective (by decide : (0x1021 : Half).getLsbD 0 = true)))
    highHalf_injective

theorem crc16rByte_reversible : Reversible crc16rByte :=
  .of_injective (rounds_injective (rightRound_injective (by decide : (0xA001 : Half).getLsbD (16 - 1) = true)))
    setWidth_injective

theorem crc8Of_xorBytes {a b : List Byte} (same : a.length = b.length) (poly : Byte) :
    crc8Of (xorBytes a b) poly = crc8Of a poly ^^^ crc8Of b poly := (crc8Byte_additive poly).foldl_xorBytes same 0 0

theorem crc16xOf_xorBytes {a b : List Byte} (same : a.length = b.length) :
    crc16xOf (xorBytes a b) 0 = crc16xOf a 0 ^^^ crc16xOf b 0 := crc16xByte_additive.foldl_xorBytes same 0 0

theorem crc16rOf_xorBytes {a b : List Byte} (same : a.length = b.length) :
    crc16rOf (xorBytes a b) = crc16rOf a ^^^ crc16rOf b := crc16rByte_additive.foldl_xorBytes same 0 0

theorem crc8Of_flipBit_ne {data : List Byte} {poly : Byte} {k b : Nat} (odd : poly.getLsbD 0 = true)
    (hk : k < data.length) (hb : b < 8) : crc8Of (flipBit data k b) poly ≠ crc8Of data poly :=
  (crc8Byte_reversible odd).foldl_flipBit_ne hk hb 0

theorem crc16xOf_flipBit_ne {data : List Byte} {k b : Nat} (hk : k < data.length) (hb : b < 8) (seed : Half) :
    crc16xOf (flipBit data k b) seed ≠ crc16xOf data seed := crc16xByte_reversible.foldl_flipBit_ne hk hb seed

theorem crc16rOf_flipBit_ne {data : List Byte} {k b : Nat} (hk : k < data.length) (hb : b < 8) :
    crc16rOf (flipBit data k b) ≠ crc16rOf data := crc16rByte_reversible.foldl_flipBit_ne hk hb 0

/-! ## Self-checks and special inputs -/

/-- Seven rounds bring the bit to the top, the eighth adds the polynomial. -/
theorem crc8Of_one (poly : Byte) : crc8Of [0x01] poly = poly := by
  have shifted : Nat.repeat (leftRound poly) 7 (0 ^^^ 0x01) = 0x80 := repeat_leftRound (by decide)
  show crc8Byte poly 0 0x01 = poly
  rw [crc8Byte, rounds_eq_repeat, crc8Round_eq, Nat.repeat, shifted]
  exact BitVec.zero_xor

/-- Eight bits are shifted out and none comes back. -/
theorem crc8Byte_zero_poly (c x : Byte) : crc8Byte 0 c x = 0 := by
  simp [crc8Byte, rounds, crc8Round_eq, leftRound_zero, ← BitVec.shiftLeft_add]

theorem crc8Of_zero_poly (a : List Byte) : crc8Of a 0 = 0 := by
  induction a with
  | nil => rfl
  | cons x xs ih =>
    show crc8From (crc8Byte 0 0 x) xs 0 = 0
    rw [crc8Byte_zero_poly]
    exact ih

theorem crc8Byte_self (poly c : Byte) : crc8Byte poly c c = 0 := by
  rw [crc8Byte, BitVec.xor_self]
  exact (leftRound_linear poly).rounds.map_zero

/-- The high byte clears the high half, so its rounds bring the low byte up, where the second byte clears it. -/
theorem crc16xOf_be16 (c : Half) : crc16xOf (be16 c) c = 0 := by
  have low : c ^^^ ((highByte c).setWidth 16 <<< 8) = (lowByte c).setWidth 16 := by
    refine BitVec.eq_of_getLsbD_eq fun i hi => ?_
    by_cases h : i < 8
    · simp [h, highByte, lowByte, hi]
    · simp [h, highByte, lowByte, hi, show i - 8 < 8 by omega, show 8 + (i - 8) = i by omega]
  have moved : crc16xByte c (highByte c) = (lowByte c).setWidth 16 <<< 8 := by
    rw [crc16xByte, low, rounds_eq_repeat, crc16xRound_eq]
    refine repeat_leftRound fun i hi => ?_
    rw [BitVec.getLsbD_setWidth, BitVec.getLsbD_of_ge _ _ (by omega), Bool.and_false]
  show crc16xByte (crc16xByte c (highByte c)) (lowByte c) = 0
  rw [moved, crc16xByte, BitVec.xor_self]
  exact (leftRound_linear 0x1021).rounds.map_zero

/-- The low byte clears the low half, so its rounds bring the high byte down, where the second byte clears it. -/
theorem crc16rFrom_le16 (c : Half) : crc16rFrom c (le16 c) = 0 := by
  have moved : crc16rByte c (lowByte c) = (highByte c).setWidth 16 := by
    rw [crc16rByte, rounds_eq_repeat, crc16rRound_eq, repeat_rightRound fun i hi => ?clear]
    case clear => simp [lowByte, hi, show i < 16 by omega]
    refine BitVec.eq_of_getLsbD_eq fun i hi => ?_
    by_cases h : i < 8
    · simp [h, highByte, lowByte, hi]
    · simp [h, highByte, lowByte, hi, BitVec.getLsbD_of_ge c (8 + i) (by omega)]
  show crc16rByte (crc16rByte c (lowByte c)) (highByte c) = 0
  rw [moved, crc16rByte, BitVec.xor_self]
  exact (rightRound_linear 0xA001).rounds.map_zero

/-! ## The operations -/

theorem runOp_checksum (op : BitVec 4) (c : State → Half) (s : State) :
    runOp op (fun t => .ok (c t) t) crcResult s = .next (s.endOp { crc := c s.begin } []) :=
  runOp_ok (t := s.begin) rfl

end Sys2Proof.Machine

namespace Sys2Proof

open Machine

/-- Settles O20: chaining is that of a fold, and each law of the register is a lemma above. -/
theorem crc8Laws : Obligations.Crc8Laws := by
  refine ⟨fun a b x c poly n => ?_, by decide +kernel⟩
  refine ⟨rfl, rfl, rfl, ?oneMore, crc8Of_one poly, List.foldl_append, ?selfCheck, fun same => crc8Of_xorBytes same poly,
    (crc8Byte_additive poly).foldl_leading_zeros n a, crc8Of_zero_poly a⟩
  case oneMore => exact List.foldl_append
  case selfCheck =>
    calc crc8Of (a ++ [crc8Of a poly]) poly
      _ = crc8Byte poly (crc8Of a poly) (crc8Of a poly) := List.foldl_append
      _ = 0 := crc8Byte_self poly _

/-- Settles O21: with an odd polynomial a step can be undone. -/
theorem crc8SeesOneBit : Obligations.Crc8SeesOneBit :=
  fun _ _ _ _ odd hk hb => crc8Of_flipBit_ne odd hk hb

/-- Settles O22: chaining is that of a fold, and each law of the register is a lemma above. -/
theorem crc16Laws : Obligations.Crc16Laws := by
  refine ⟨fun a b x seed c n => ?_, by decide +kernel⟩
  refine ⟨rfl, ?oneMoreX, rfl, rfl, ?oneMoreR, List.foldl_append, List.foldl_append, ?selfCheckX, ?selfCheckR,
    crc16xByte_additive.foldl_leading_zeros n a, crc16rByte_additive.foldl_leading_zeros n a,
    fun same => ⟨crc16xOf_xorBytes same, crc16rOf_xorBytes same⟩⟩
  case oneMoreX => exact List.foldl_append
  case oneMoreR => exact List.foldl_append
  case selfCheckX =>
    calc crc16xOf (a ++ be16 (crc16xOf a 0)) 0
      _ = crc16xOf (be16 (crc16xOf a 0)) (crc16xOf a 0) := List.foldl_append
      _ = 0 := crc16xOf_be16 _
  case selfCheckR =>
    calc crc16rOf (a ++ le16 (crc16rOf a))
      _ = crc16rFrom (crc16rOf a) (le16 (crc16rOf a)) := List.foldl_append
      _ = 0 := crc16rFrom_le16 _

/-- Settles O23: the steps of both can be undone, as 0x1021 is odd and 0xA001 has its top bit set. -/
theorem crc16SeesOneBit : Obligations.Crc16SeesOneBit :=
  fun _ seed _ _ hk hb => ⟨crc16xOf_flipBit_ne hk hb seed, crc16rOf_flipBit_ne hk hb⟩

/-- Settles O19: the procedure of a checksum is one value of the state at its start. -/
theorem checksumOperations : Obligations.ChecksumOperations := fun s =>
  ⟨runOp_checksum 0x1 (fun t => (crc8Of t.outBytes t.opnd.poly).setWidth 16) s,
    runOp_checksum 0x2 (fun t => crc16xOf t.outBytes t.opnd.seed) s, runOp_checksum 0x3 (fun t => crc16rOf t.outBytes) s,
    s.outBytes_length⟩

end Sys2Proof
end

section
/-! SUPPORT. MSP_TRANSACT (41_msp_transport.md R160 to R169): the whole state it leaves after a reply it accepts, after a short write and after a refusal, and what one changed bit does to a reply it would have accepted. -/

namespace Sys2Proof.Machine

/-! ## A reply that is accepted -/

/-- A reply is accepted exactly where none of the tests of R165 fails. -/
theorem mspParse_eq_ok {p : Params} {cap : Nat} {rx a : List Byte} :
    mspParse p cap rx = .ok a ↔
      rx.head? = some p.mspP0 ∧ 9 ≤ rx.length ∧ rx.length = 9 + mspSize rx ∧
        crc8Of ((rx.drop 3).take (rx.length - 4)) p.mspPoly = rx.getD (rx.length - 1) 0 ∧
        (rx.drop 8).take (min (mspSize rx) cap) = a := by
  rw [mspParse_eq]
  by_cases hhead : rx.head? = some p.mspP0
  case neg => simp [hhead]
  by_cases hlen : rx.length < 9 ∨ rx.length ≠ 9 + mspSize rx
  case pos =>
    rw [if_neg (not_not.2 hhead), if_pos hlen]
    exact ⟨nofun, fun ⟨_, long, sized, _⟩ => by omega⟩
  by_cases hcrc : crc8Of ((rx.drop 3).take (rx.length - 4)) p.mspPoly = rx.getD (rx.length - 1) 0
  case neg =>
    rw [if_neg (not_not.2 hhead), if_neg hlen, if_pos hcrc]
    exact ⟨nofun, fun ⟨_, _, _, summed, _⟩ => absurd summed hcrc⟩
  rw [if_neg (not_not.2 hhead), if_neg hlen, if_neg (not_not.2 hcrc), Except.ok.injEq]
  exact ⟨fun copied => ⟨hhead, by omega, by omega, hcrc, copied⟩, fun ⟨_, _, _, _, copied⟩ => copied⟩

section
variable (p : Params) (b1 b2 f : Byte) (c : Half) (q : List Byte)

@[simp] theorem mspReply_length : (mspReply p b1 b2 f c q).length = 9 + q.length := by
  simp [mspReply]
  omega

/-- The size field of a reply holds the length of its payload (R91). -/
theorem mspSize_mspReply (hq : q.length ≤ 65535) : mspSize (mspReply p b1 b2 f c q) = q.length := by
  have field : unle16 ((mspReply p b1 b2 f c q).drop 6) = BitVec.ofNat 16 q.length := unle16_le16 _
  rw [mspSize, field, BitVec.toNat_ofNat]
  exact Nat.mod_eq_of_lt (by omega)

/-- A well-formed reply is accepted, whatever the bytes are that no test examines, and its payload is cut at the capacity (R166, R167, R169). -/
theorem mspParse_mspReply (hq : q.length ≤ 65535) (cap : Nat) :
    mspParse p cap (mspReply p b1 b2 f c q) = .ok (q.take cap) := by
  have covered : ((mspReply p b1 b2 f c q).drop 3).take (5 + q.length) =
      ([f] ++ le16 c ++ le16 (BitVec.ofNat 16 q.length)) ++ q := List.take_left' (by simp; omega)
  have last : (mspReply p b1 b2 f c q).getD (8 + q.length) 0 =
      crc8Of (([f] ++ le16 c ++ le16 (BitVec.ofNat 16 q.length)) ++ q) p.mspPoly := by
    have before : ([p.mspP0, b1, b2] ++ ([f] ++ le16 c ++ le16 (BitVec.ofNat 16 q.length)) ++ q).length =
        8 + q.length := by simp; omega
    rw [mspReply, ← before, List.getD_eq_getElem?_getD, List.getElem?_concat_length, Option.getD_some]
  have copied : ((mspReply p b1 b2 f c q).drop 8).take (min q.length cap) = q.take cap := by
    show (q ++ [_]).take (min q.length cap) = q.take cap
    rw [List.take_append_of_le_length (by omega), Nat.min_comm, ← List.take_eq_take_min]
  refine mspParse_eq_ok.2 ⟨rfl, by simp, ?_, ?_, ?_⟩
  · rw [mspReply_length, mspSize_mspReply _ _ _ _ _ _ hq]
  · rw [mspReply_length, show 9 + q.length - 4 = 5 + q.length by omega, show 9 + q.length - 1 = 8 + q.length by omega,
      covered, last]
  · rw [mspSize_mspReply _ _ _ _ _ _ hq, copied]

end

/-! ## One changed bit -/

section
variable {bs : List Byte} {k b : Nat}

@[simp] theorem flipBit_length : (flipBit bs k b).length = bs.length := List.length_set

theorem flipBit_getD_of_ne {i : Nat} (h : i ≠ k) : (flipBit bs k b).getD i 0 = bs.getD i 0 := by
  simp [flipBit, List.getD_eq_getElem?_getD, List.getElem?_set_ne h.symm]

theorem flipBit_getD_self_ne (hk : k < bs.length) (hb : b < 8) : (flipBit bs k b).getD k 0 ≠ bs.getD k 0 := by
  intro same
  have bit := congrArg (·.getLsbD b) same
  simp [flipBit, hk, hb] at bit

/-- A changed byte of a run is the same byte of the run changed. -/
theorem flipBit_drop_take {i n : Nat} (hi : i ≤ k) (hn : k - i < n) :
    ((flipBit bs k b).drop i).take n = flipBit ((bs.drop i).take n) (k - i) b := by
  have byte : ((bs.drop i).take n).getD (k - i) 0 = bs.getD k 0 := by
    simp [List.getD_eq_getElem?_getD, List.getElem?_take_of_lt hn, Nat.add_sub_cancel' hi]
  rw [flipBit, flipBit, byte, List.drop_set, if_neg (by omega), List.take_set]

/-- Only a bit of the size field changes the size a reply declares (R91). -/
theorem mspSize_flipBit_of_ne (h : ¬(k = 6 ∨ k = 7)) : mspSize (flipBit bs k b) = mspSize bs := by
  rw [mspSize_eq, mspSize_eq, flipBit_getD_of_ne (by omega), flipBit_getD_of_ne (by omega)]

theorem mspSize_flipBit_ne (h : k = 6 ∨ k = 7) (hk : k < bs.length) (hb : b < 8) :
    mspSize (flipBit bs k b) ≠ mspSize bs := by
  have changed : ((flipBit bs k b).getD k 0).toNat ≠ (bs.getD k 0).toNat :=
    BitVec.toNat_inj.not.2 (flipBit_getD_self_ne hk hb)
  rw [mspSize_eq, mspSize_eq]
  rcases h with rfl | rfl
  · rw [flipBit_getD_of_ne (i := 7) (by omega)]
    omega
  · rw [flipBit_getD_of_ne (i := 6) (by omega)]
    have low := (bs.getD 6 0).isLt
    omega

end

/-- A reply that is accepted is accepted no more once a bit of its header or payload has changed: a changed size no longer fits the length, and any other changed bit changes the checksum (R165, R169). -/
theorem mspParse_flipBit {p : Params} {cap k b : Nat} {rx a : List Byte} (good : mspParse p cap rx = .ok a)
    (odd : p.mspPoly.getLsbD 0 = true) (h3 : 3 ≤ k) (hk : k + 1 < rx.length) (hb : b < 8) :
    mspParse p cap (flipBit rx k b) = .error (if k = 6 ∨ k = 7 then .lengthMismatch else .crcMismatch) := by
  obtain ⟨head, long, sized, summed, -⟩ := mspParse_eq_ok.1 good
  have head' : (flipBit rx k b).head? = some p.mspP0 := by
    rw [flipBit, List.head?_eq_getElem?, List.getElem?_set_ne (by omega), ← List.head?_eq_getElem?, head]
  rw [mspParse_eq, if_neg (not_not.2 head'), flipBit_length]
  by_cases field : k = 6 ∨ k = 7
  · have resized := mspSize_flipBit_ne field (by omega : k < rx.length) hb
    rw [if_pos (.inr (by omega)), if_pos field]
  · have changed : crc8Of (((flipBit rx k b).drop 3).take (rx.length - 4)) p.mspPoly ≠
        (flipBit rx k b).getD (rx.length - 1) 0 := by
      rw [flipBit_drop_take h3 (by omega), flipBit_getD_of_ne (by omega), ← summed]
      exact crc8Of_flipBit_ne odd (by simp; omega) hb
    rw [mspSize_flipBit_of_ne field, if_neg (by omega), if_pos changed, if_neg field]

/-! ## The operation -/

/-- The whole state at the end of MSP_TRANSACT is that of its start, but for the calls of the stream and the results. -/
theorem Heard.endOp_mspTransact {s t : State} {es : List StreamEvent} {env : Env} (heard : Heard s.begin t es env)
    (state : (mspTransact s.opnd.cmd s.outBytes s.opnd.cap.toNat s.begin).state = t) (r : Results) (bs : List Byte) :
    t.endOp r bs = { s with env := env, events := s.events ++ es }.endOp r bs := by
  obtain ⟨-, -, -, chanValid, chan, mem, cached⟩ :=
    state ▸ transactionRel.mspTransact s.opnd.cmd s.outBytes s.opnd.cap.toNat s.begin
  exact State.endOp_eq (s := s) heard.host mem cached ⟨chanValid, chan⟩ heard.env heard.events r bs

theorem mspTransact_tooLong {cmd : Half} {out : List Byte} {cap : Nat} {s : State} (hl : s.linkUp = true)
    (h : 65535 < out.length ∨ s.cfg.params.mspMaxFrame < 9 + out.length) :
    mspTransact cmd out cap s = raise .payloadTooLong s := by
  rw [mspTransact, if_neg (by simp [hl]), if_pos (by simpa [mspTooLong] using h)]

/-- A script that takes less than the request: the one write, and no read (R163). -/
theorem mspTransact_short {s : State} {cmd : Half} {out : List Byte} {cap n : Nat} {ns : List Nat}
    (hl : s.linkUp = true) (hsize : out.length ≤ 65535) (hframe : 9 + out.length ≤ s.cfg.params.mspMaxFrame)
    (h0 : s.env.abandon = []) (h1 : s.env.accepts = n :: ns) (hn : n < 9 + out.length) :
    ∃ t, Heard s t [.write s.seqStep (mspRequest s.cfg.params cmd out) n] { s.env with accepts := ns } ∧
      mspTransact cmd out cap s = raise .shortWrite t := by
  obtain ⟨t, sent, heard⟩ :=
    streamWrite_scripted (mspRequest s.cfg.params cmd out) (mspRequest s.cfg.params cmd out) h0 h1
  rw [mspRequest_length, Nat.min_eq_left (by omega)] at sent heard
  have fits : mspTooLong s.cfg.params out = false := by simp [mspTooLong]; omega
  refine ⟨t, heard, ?_⟩
  rw [mspTransact, if_neg (by simp [hl]), if_neg (by simp [fits]), sent, Ret.bind_ok,
    if_pos (by rw [mspRequest_length]; exact hn)]

/-- A reply no longer than the read's bound comes whole off a line with nothing else on it, and is all the operation goes by. -/
theorem mspTransact_reply {s : State} {n : Nat} {ns : List Nat} {rx : List Byte} {xs : List (List Byte)}
    (hl : s.linkUp = true) (hsize : s.opnd.len.toNat ≤ 65535)
    (hframe : 9 + s.opnd.len.toNat ≤ s.cfg.params.mspMaxFrame) (hab : s.env.abandon = []) (hline : s.env.line = [])
    (hacc : s.env.accepts = n :: ns) (hn : 9 + s.opnd.len.toNat ≤ n) (hrx : rx.length ≤ s.cfg.params.mspMaxFrame)
    (harr : s.env.arrivals = rx :: xs) :
    ∃ t, Heard s.begin t [.write 0 (mspRequest s.cfg.params s.opnd.cmd s.outBytes) (9 + s.opnd.len.toNat),
          .read 0 s.cfg.params.mspMaxFrame s.timeout rx] { s.env with accepts := ns, arrivals := xs } ∧
      mspTransact s.opnd.cmd s.outBytes s.opnd.cap.toNat s.begin =
        ofExcept (mspParse s.cfg.params s.opnd.cap.toNat rx) t := by
  have whole : rx = (s.env.line ++ rx).take s.cfg.params.mspMaxFrame := by
    rw [hline, List.nil_append, List.take_of_length_le hrx]
  have drained : (s.env.line ++ rx).drop s.cfg.params.mspMaxFrame = s.env.line := by
    rw [hline, List.nil_append, List.drop_of_length_le hrx]
  obtain ⟨t, heard, ran⟩ := mspTransact_scripted (s := s.begin) (c := s.opnd.cmd) (out := s.outBytes)
    (cap := s.opnd.cap.toNat) hl (by simpa using hsize) (by simpa using hframe) hab hacc (by simpa using hn) harr whole
  simp only [State.outBytes_length, State.begin_cfg, State.begin_env, drained] at heard
  exact ⟨t, heard, ran⟩

/-- The row MSP_FRAME is that transaction (log entry 18). -/
theorem exec_mspFrame (s : State) : exec .mspFrame s = exec .mspTransact s := by rfl

end Sys2Proof.Machine

namespace Sys2Proof

open Machine

/-- Settles O26: the reply is taken in one read and accepted, and nothing but the stream and the results has changed. -/
theorem mspRoundTrip : Obligations.MspRoundTrip := by
  intro i s n ns b1 b2 f c q xs row hl hsize hframe hab hline hacc hn hq hqframe harr
  have transact : exec i s = exec .mspTransact s := by
    rcases row with rfl | rfl
    · rfl
    · exact exec_mspFrame s
  obtain ⟨t, heard, ran⟩ := mspTransact_reply hl hsize hframe hab hline hacc hn (by simpa using hqframe) harr
  rw [mspParse_mspReply _ _ _ _ _ _ hq] at ran
  have taken : BitVec.ofNat 32 (q.take s.opnd.cap.toNat).length = BitVec.ofNat 32 (min q.length s.opnd.cap.toNat) := by
    rw [List.length_take, Nat.min_comm]
  rw [transact, execMspTransact_ok ran, heard.endOp_mspTransact (congrArg Ret.state ran), taken]

/-- Settles O28: a payload too long stops the operation at its first lines, a short write after that one call. -/
theorem mspRefusals : Obligations.MspRefusals := by
  refine ⟨fun s hl h => ?_, fun s n ns hl hsize hframe hab hacc hn => ?_⟩
  · dsimp only [exec, execMspTransact]
    refine runOp_refused (e := .payloadTooLong) ?_
    exact mspTransact_tooLong (s := s.begin) hl (by simpa using h)
  · obtain ⟨t, heard, ran⟩ := mspTransact_short (s := s.begin) (cmd := s.opnd.cmd) (out := s.outBytes)
      (cap := s.opnd.cap.toNat) hl (by simpa using hsize) (by simpa using hframe) hab hacc (by simpa using hn)
    rw [execMspTransact_raise ran, heard.endOp_mspTransact (congrArg Ret.state ran)]
    rfl

/-- Settles O29: the reply with its bit changed comes whole and is not accepted (`mspParse_flipBit`). -/
theorem mspSeesOneBit : Obligations.MspSeesOneBit := by
  intro s n ns b1 b2 f c q xs k b odd h3 hk hb hl hsize hframe hab hline hacc hn hq hqframe harr
  obtain ⟨t, -, ran⟩ := mspTransact_reply hl hsize hframe hab hline hacc hn (by simpa using hqframe) harr
  have good := mspParse_mspReply s.cfg.params b1 b2 f c q hq s.opnd.cap.toNat
  rw [mspParse_flipBit good odd h3 (by simp; omega) hb] at ran
  exact ⟨_, execMspTransact_raise ran, apply_ite statusCode _ _ _, rfl⟩

end Sys2Proof
end

section
/-! SUPPORT. E4W_SEND against a reply (42_esc4way_transport.md R180, R186, R189): one that acknowledges it, and a good one with one bit changed. -/

namespace Sys2Proof.Machine

/-! ## One changed bit -/

theorem flipBit_append_right (h b : List Byte) (k j : Nat) : h ++ flipBit b k j = flipBit (h ++ b) (h.length + k) j := by
  rw [flipBit, flipBit, List.set_append_right _ _ (Nat.le_add_right _ _),
    List.getD_append_right _ _ _ _ (Nat.le_add_right _ _), Nat.add_sub_cancel_left]

/-- The checksum that closes a reply is that of all the bytes before it (R101). -/
theorem Reply.tail_checked (r : Reply) (a : Byte) :
    crc16xOf (r.head ++ (r.tail a).take (r.payload.length + 1)) 0 = unbe16 ((r.tail a).drop (r.payload.length + 1)) := by
  have summed : (r.tail a).take (r.payload.length + 1) = r.payload ++ [a] := List.take_left' (by simp)
  have given : (r.tail a).drop (r.payload.length + 1) = be16 (crc16xOf (r.head ++ r.payload ++ [a]) 0) :=
    List.drop_left' (by simp)
  rw [summed, given, unbe16_be16, List.append_assoc]

/-- A bit changed among the bytes the checksum covers changes the checksum made of them, and not the one given (R184, R189 (c)). -/
theorem e4wCheck_flipBit {h b : List Byte} {k j : Nat}
    (good : crc16xOf (h ++ b.take (e4wDeclared h + 1)) 0 = unbe16 (b.drop (e4wDeclared h + 1)))
    (hk : k ≤ e4wDeclared h) (hlen : e4wDeclared h < b.length) (hj : j < 8) (s : State) :
    e4wCheck h (flipBit b k j) s = raise .crcMismatch s := by
  have given : (flipBit b k j).drop (e4wDeclared h + 1) = b.drop (e4wDeclared h + 1) := by
    rw [flipBit, List.drop_set, if_pos (by omega)]
  have made : (flipBit b k j).take (e4wDeclared h + 1) = flipBit (b.take (e4wDeclared h + 1)) k j :=
    flipBit_drop_take (i := 0) (Nat.zero_le k) (by omega)
  have changed : crc16xOf (h ++ (flipBit b k j).take (e4wDeclared h + 1)) 0 ≠
      unbe16 ((flipBit b k j).drop (e4wDeclared h + 1)) := by
    rw [given, made, flipBit_append_right, ← good]
    exact crc16xOf_flipBit_ne (by simp; omega) hj 0
  rw [e4wCheck_eq, if_pos changed]

/-- A transaction whose reply comes in two reads, whole, is answered by the check of that reply (R103, R180). -/
theorem e4wSend_checks {s : State} {cmd : Byte} {addr : Half} {out h b : List Byte} {n : Nat} {ns : List Nat}
    {xs : List (List Byte)} (hl : s.linkUp = true) (h1 : 1 ≤ out.length) (h2 : out.length ≤ 256)
    (hab : s.env.abandon = []) (hline : s.env.line = []) (hacc : s.env.accepts = n :: ns) (hn : 263 ≤ n)
    (harr : s.env.arrivals = h :: b :: xs) (hh : h.length = 5) (hb : b.length = e4wDeclared h + 3) :
    ∃ t, t.res = s.res ∧ e4wSend cmd addr out s = e4wCheck h b t := by
  obtain ⟨t, sent, put⟩ := e4wPut_scripted (cmd := cmd) (addr := addr) hl h1 h2 hab hacc
  obtain ⟨_, u, -, heard, reply⟩ := e4wReply_scripted (s := t) (x := h) (y := b) (h := h) (l := b) (b := b) (xs := xs)
    (by rw [sent.env]; exact hab) (by rw [sent.env]; exact harr)
    (by rw [sent.env]; simp [hline, List.take_of_length_le, hh])
    (by rw [sent.env]; simp [hline, hh]) (by rw [List.take_of_length_le hb.le])
  rw [if_neg (by omega)] at put
  rw [if_neg (by omega), if_neg (by omega)] at reply
  exact ⟨u, heard.res.trans sent.res, by rw [e4wSend, put, Ret.bind_ok, reply]⟩

end Sys2Proof.Machine

namespace Sys2Proof

open Machine

/-- Settles O30: the operation is its one transaction, which hands back the payload (`e4wSend_answered`). -/
theorem e4wSendAcknowledged : Obligations.E4wSendAcknowledged := by
  intro s r rest hl h1 h2 ha
  obtain ⟨run, -⟩ := e4wSend_answered (s := s.begin) (cmd := lowByte s.opnd.cmd) (addr := s.opnd.addr)
    (out := s.outBytes) hl (by simpa using h1) (by simpa using h2) ha
  exact execE4wSend_ok run

/-- Settles O33: the reply with its bit changed comes whole and does not pass its check (`e4wCheck_flipBit`). -/
theorem e4wSeesOneBit : Obligations.E4wSeesOneBit := by
  intro s r a n ns xs k b hl h1 h2 hr hab hline hacc hn hk hb harr
  have declared := r.head_declared hr
  obtain ⟨t, same, run⟩ := e4wSend_checks (s := s.begin) (cmd := lowByte s.opnd.cmd) (addr := s.opnd.addr)
    (out := s.outBytes) hl (by simpa using h1) (by simpa using h2) hab hline hacc hn harr r.head_length (by simp [declared])
  have good := r.tail_checked a
  rw [← declared] at good hk
  rw [e4wCheck_flipBit good hk (by simp [declared]) hb] at run
  exact ⟨_, execE4wSend_raise run, rfl, congrArg Results.ack same, rfl⟩

end Sys2Proof
end

section
/-! SUPPORT. SET_FIELD refused before it touches the mirror or the stream (43_settings_cache.md R221, R232, R298). -/

namespace Sys2Proof.Machine

/-- With an entry found, SET_FIELD ends with what the value on the port or the edit raises at its start (R232). -/
theorem execSetField_refused {s : State} {e : FieldEntry} {x : Status} (he : s.cfg.params.find s.opnd.field = some e)
    (h : ((ofExcept s.portValue s.begin).bind fun v t => setField e v t) = raise x s.begin) :
    exec .setField s = .next (s.endOp { status := statusCode x } []) := by
  dsimp only [exec, execSetField]
  refine runOp_refused (e := x) ?_
  rw [lookup_of (s := s.begin) (i := s.begin.opnd.field) he, Ret.bind_ok]
  exact h

/-- With a value on the port too, it ends with what the edit raises. -/
theorem execSetField_raises {s : State} {e : FieldEntry} {v : Value} {x : Status}
    (he : s.cfg.params.find s.opnd.field = some e) (hv : s.portValue = .ok v)
    (h : setField e v s.begin = raise x s.begin) : exec .setField s = .next (s.endOp { status := statusCode x } []) :=
  execSetField_refused he (by rw [hv]; exact h)

end Sys2Proof.Machine

namespace Sys2Proof

open Machine

/-- Settles O51: the lookup, the value on the port and the edit raise in this order, each before anything is touched. -/
theorem setFieldRefusals : Obligations.SetFieldRefusals := by
  refine fun s => ⟨fun absent => ?_, fun e he => ⟨fun reserved => ?_, fun v x hv bad => ?_, fun v raw hv coded =>
    ⟨fun hl => ?_, fun hl hc => ?_⟩⟩⟩
  · dsimp only [exec, execSetField]
    refine runOp_refused (e := .unknownField) ?_
    rw [lookup_none (s := s.begin) (i := s.begin.opnd.field) absent, raise_bind]
  · exact execSetField_refused (x := .badValueKind) he (by rw [portValue_reserved reserved, ofExcept_error, raise_bind])
  · refine execSetField_raises he hv ?_
    rw [setField, show encodeValue s.begin.cfg.params.strPad e.width e.codec v = .error x from bad, ofExcept_error,
      raise_bind]
  · exact execSetField_raises he hv (setField_down (s := s.begin) coded hl)
  · exact execSetField_raises he hv (setField_noChannel (s := s.begin) coded hl hc)

end Sys2Proof
end

section
/-! SUPPORT. The progress report of a chunked transfer whatever the peer answers (42_esc4way_transport.md R190, R194, R195, R295): the stream events chunk by chunk, and the count of the chunks that ended `OK`. -/

namespace Sys2Proof.Machine

/-! ## One chunk -/

theorem not_chunkDone_nil (i : Instr) (n : Nat) : ¬chunkDone i n [] := fun h => by simpa using acknowledged_length h.1

theorem wireErrors_code : ∀ e ∈ wireErrors, statusCode e ≠ 0 := by decide

/-- A transaction that is not acknowledged is no chunk done, of a read or of a write. -/
theorem unmade_chunk {i : Instr} {n : Nat} {s t : State} {e : Status} (h : Failed wireErrors 0 e t ∧ Unmade s t) :
    statusCode e ≠ 0 ∧ ∃ es, t.events = s.events ++ es ∧ es.length ≤ 3 ∧ ¬chunkDone i n es := by
  obtain ⟨failed, es, events, few, unmade⟩ := h
  exact ⟨wireErrors_code e failed.error, es, events, few, fun done => unmade done.1⟩

/-- The payload of an acknowledged transaction is as long as its reply declares (R103, R186). -/
theorem e4wSend_ok_repliedLength {cmd : Byte} {addr : Half} {out p : List Byte} {s t : State}
    (run : e4wSend cmd addr out s = .ok p t) :
    ∃ es, t.events = s.events ++ es ∧ acknowledged es ∧ p.length = repliedLength es := by
  obtain ⟨-, -, -, -, hd, b, events, made, rfl⟩ := e4wSend_ok run
  obtain ⟨length, -⟩ := acknowledged_reply made
  refine ⟨_, events, made, ?_⟩
  rw [List.length_take, length]
  exact Nat.min_eq_left (Nat.le_add_right _ 3)

/-- How a chunk of `n` bytes ends: done, on a stream still ready for the next, or with an error and at most three events of a chunk not done. -/
structure ChunkEnds (i : Instr) (n : Nat) (s : State) (r : Ret (List Byte)) : Prop where
  xfer : r.state.res.xfer = s.res.xfer
  ends : Ends (fun t => Ready 0 true t ∧ ∃ es, t.events = s.events ++ es ∧ chunkDone i n es)
    (fun e t => statusCode e ≠ 0 ∧ ∃ es, t.events = s.events ++ es ∧ es.length ≤ 3 ∧ ¬chunkDone i n es) r

section
variable {s : State} (h : Ready 0 true s)
include h

/-- A chunk of a write is done when its transaction is acknowledged (R194). -/
theorem deviceWrite_chunkEnds (addr : Half) {bs : List Byte} (h1 : 1 ≤ bs.length) (h2 : bs.length ≤ 256) (n : Nat) :
    ChunkEnds .writeFlash n s (deviceWrite addr bs s) where
  xfer := (transactionRel.deviceWrite addr bs s).2.1
  ends := by
    refine (e4wSend_made s.cfg.params.cmdDeviceWrite addr h1 h2 h).mono ?_ fun _ _ _ failed => unmade_chunk failed
    rintro p t - ⟨ready, es, events, made⟩
    exact ⟨ready.of_le (Nat.zero_le _), es, events, made, by simp⟩

/-- A chunk of a read is done when its transaction is acknowledged with as many bytes as asked for (R190, R192). -/
theorem deviceRead_chunkEnds (addr : Half) (n : Nat) : ChunkEnds .readFlash n s (deviceRead addr n s) where
  xfer := (transactionRel.deviceRead addr n s).2.1
  ends := by
    have sent := e4wSend_made s.cfg.params.cmdDeviceRead addr (out := [lenEnc n]) (by simp) (by simp) h
    refine (sent.mono (fun _ _ _ made => made) fun _ _ _ failed => unmade_chunk failed).bind fun p t run made => ?_
    obtain ⟨es, events, ack, length⟩ := e4wSend_ok_repliedLength run
    by_cases other : p.length ≠ n
    · rw [if_pos other]
      exact .raised ⟨by decide, es, events, (acknowledged_length ack).le, fun done => other (length.trans (done.2 rfl))⟩
    · rw [if_neg other]
      exact .ok p ⟨made.1.of_le (Nat.zero_le _), es, events, ack, fun _ => length.symm.trans (not_not.1 other)⟩

end

/-! ## The chunks of a transfer -/

/-- `t` is `s` after the stream events of the first chunks of a transfer of `len` bytes, `ts`, which are done, and of `last`, of a chunk that is not; `R_XFER` counts the bytes of the chunks done. -/
structure Chunks (i : Instr) (len : Nat) (s : State) (ts : List (List StreamEvent)) (last : List StreamEvent)
    (t : State) : Prop where
  events : t.events = s.events ++ ts.flatten ++ last
  few : last.length ≤ 3
  done : ∀ k es, ts[k]? = some es → chunkDone i (chunkLen len k) es
  undone : ¬chunkDone i (chunkLen len ts.length) last
  xfer : t.res.xfer = BitVec.ofNat 32 (min len (256 * ts.length))

/-- How a transfer ends from `s`: with all its `m` chunks done, or with the error of one that is not. -/
abbrev TransferEnds (i : Instr) (len : Nat) (s : State) (m : Nat) : Ret Unit → Prop :=
  Ends (fun t => ∃ ts, ts.length = m ∧ Chunks i len s ts [] t)
    fun e t => statusCode e ≠ 0 ∧ ∃ ts last, ts.length < m ∧ Chunks i len s ts last t

section
variable {i : Instr} {len : Nat} {s t : State} {ts : List (List StreamEvent)}

theorem Chunks.begin (events : t.events = s.events) (xfer : t.res.xfer = 0) : Chunks i len s [] [] t :=
  ⟨by simp [events], by simp, by simp, not_chunkDone_nil i _, by simp [xfer]⟩

/-- One more chunk done, and counted. -/
theorem Chunks.snoc (h : Chunks i len s ts [] t) {u : State} {es : List StreamEvent} (events : u.events = t.events ++ es)
    (done : chunkDone i (chunkLen len ts.length) es)
    (xfer : u.res.xfer = t.res.xfer + BitVec.ofNat 32 (chunkLen len ts.length)) : Chunks i len s (ts ++ [es]) [] u where
  events := by simp [events, h.events]
  few := by simp
  done := fun k fs hk => by
    rcases Nat.lt_trichotomy k ts.length with before | rfl | after
    · rw [List.getElem?_append_left before] at hk
      exact h.done k fs hk
    · rw [List.getElem?_concat_length] at hk
      cases hk
      exact done
    · rw [List.getElem?_eq_none (by simpa using after)] at hk
      cases hk
  undone := not_chunkDone_nil i _
  xfer := by
    have count : min len (256 * ts.length) + chunkLen len ts.length = min len (256 * (ts ++ [es]).length) := by
      simp only [chunkLen, List.length_append, List.length_singleton]
      omega
    rw [xfer, h.xfer, ← BitVec.ofNat_add, count]

/-- The chunk after those done ends the transfer with its error, or the transfer goes on with it counted. -/
theorem Chunks.next (h : Chunks i len s ts [] t) {m : Nat} (more : ts.length < m) {r : Ret (List Byte)}
    (chunk : ChunkEnds i (chunkLen len ts.length) t r) {f : List Byte → State → Ret Unit}
    (rest : ∀ p u es, r = .ok p u → Ready 0 true u →
      Chunks i len s (ts ++ [es]) [] (u.setXfer (u.res.xfer + BitVec.ofNat 32 (chunkLen len ts.length))) →
      TransferEnds i len s m (f p u)) : TransferEnds i len s m (r.bind f) := by
  obtain ⟨xfer, ends⟩ := chunk
  cases ends with
  | @ok p u ended =>
    obtain ⟨ready, es, events, done⟩ := ended
    exact rest p u es rfl ready (h.snoc events done (congrArg (· + _) xfer))
  | raised ended =>
    obtain ⟨code, es, events, few, undone⟩ := ended
    exact .raised ⟨code, ts, es, more, by simp [events, h.events], few, h.done, undone, xfer.trans h.xfer⟩

theorem readChunks_transferEnds (addr : Nat) {m k j : Nat} (hj : ts.length = j) (hm : j + k = m) (ready : Ready 0 true t)
    (h : Chunks .readFlash len s ts [] t) : TransferEnds .readFlash len s m (readChunks addr len k j t) := by
  induction k generalizing j ts t with
  | zero => exact .ok () ⟨ts, by omega, h⟩
  | succ k ih =>
    subst hj
    refine h.next (by omega) (deviceRead_chunkEnds ready _ _) fun p u es run ready more => ?_
    rw [← deviceRead_ok run] at more
    exact ih (ts := ts ++ [es]) (by simp) (by omega) ((ready.setInbuf _).setXfer _)
      ⟨more.events, more.few, more.done, more.undone, more.xfer⟩

end

theorem writeChunks_transferEnds (addr : Nat) {buf : List Byte} {s t : State} {ts : List (List StreamEvent)} {k j : Nat}
    (hj : ts.length = j) (hm : j + k = chunkCount buf.length) (ready : Ready 0 true t)
    (h : Chunks .writeFlash buf.length s ts [] t) :
    TransferEnds .writeFlash buf.length s (chunkCount buf.length) (writeChunks addr buf k j t) := by
  induction k generalizing j ts t with
  | zero => exact .ok () ⟨ts, by omega, h⟩
  | succ k ih =>
    subst hj
    have legal := chunkLen_pos (len := buf.length) (i := ts.length) (by omega)
    rw [← chunkBytes_length] at legal
    exact h.next (by omega) (deviceWrite_chunkEnds ready _ legal.1 legal.2 _) fun p u es run ready more =>
      ih (ts := ts ++ [es]) (by simp) (by omega) (ready.setXfer _) more

theorem readFlash_transferEnds {addr len : Nat} {s : State} (hr : addr + len ≤ 65536) (h : Ready 0 true s) :
    TransferEnds .readFlash len s (chunkCount len) (readFlash addr len s) := by
  rw [readFlash, admitTransfer_of h.linkUp h.chanValid hr, Ret.bind_ok]
  exact readChunks_transferEnds addr rfl (Nat.zero_add _) ((h.setXfer 0).setInbuf []) (.begin rfl rfl)

theorem writeFlash_transferEnds {addr : Nat} {buf : List Byte} {s : State} (hr : addr + buf.length ≤ 65536)
    (h : Ready 0 true s) : TransferEnds .writeFlash buf.length s (chunkCount buf.length) (writeFlash addr buf s) := by
  rw [writeFlash, admitTransfer_of h.linkUp h.chanValid hr, Ret.bind_ok]
  exact writeChunks_transferEnds addr rfl (Nat.zero_add _) (h.setXfer 0) (.begin rfl rfl)

/-! ## The report at the end of the operation -/

/-- Every chunk done counts the whole length. -/
theorem Chunks.xfer_whole {i : Instr} {n : Word} {s t : State} {ts : List (List StreamEvent)} {last : List StreamEvent}
    (h : Chunks i n.toNat s ts last t) (all : ts.length = chunkCount n.toNat) : t.res.xfer = n := by
  rw [h.xfer, all, Nat.min_eq_left (le_chunkCount _), BitVec.ofNat_toNat, BitVec.setWidth_eq]

/-- What a transfer reports (R190, R194, R195, R295). -/
def ReportsProgress (i : Instr) (s : State) : Prop :=
  ∃ (t : State) (ts : List (List StreamEvent)) (last : List StreamEvent), exec i s = .next t ∧
    t.events = s.events ++ ts.flatten ++ last ∧ last.length ≤ 3 ∧
    (∀ k es, ts[k]? = some es → chunkDone i (chunkLen s.opnd.len.toNat k) es) ∧
    ¬chunkDone i (chunkLen s.opnd.len.toNat ts.length) last ∧
    (t.res.status = 0 → last = [] ∧ ts.length = chunkCount s.opnd.len.toNat ∧ t.res.xfer = s.opnd.len) ∧
    (t.res.status ≠ 0 → t.res.xfer.toNat = 256 * ts.length ∧ t.res.xfer.toNat ≤ s.opnd.len.toNat) ∧
    (i = .readFlash → t.inbuf.length = t.res.xfer.toNat ∧ t.res.len = t.res.xfer)

/-- An operation that ends after these chunks reports them, if its results give the count and its status tells whether they are all. -/
theorem Chunks.reports {i : Instr} {s t : State} {ts : List (List StreamEvent)} {last : List StreamEvent} {r : Results}
    {bs : List Byte} (h : Chunks i s.opnd.len.toNat s.begin ts last t) (run : exec i s = .next (t.endOp r bs))
    (xfer : r.xfer = t.res.xfer) (whole : r.status = 0 → last = [] ∧ ts.length = chunkCount s.opnd.len.toNat)
    (part : r.status ≠ 0 → 256 * ts.length ≤ s.opnd.len.toNat)
    (handed : i = .readFlash → bs.length = t.res.xfer.toNat ∧ r.len = t.res.xfer) : ReportsProgress i s := by
  refine ⟨_, ts, last, run, h.events, h.few, h.done, h.undone, fun zero => ?_, fun error => ?_, fun read => ?_⟩
  · obtain ⟨empty, all⟩ := whole zero
    exact ⟨empty, all, xfer.trans (h.xfer_whole all)⟩
  · have fits := part error
    have count : r.xfer.toNat = 256 * ts.length := by
      rw [xfer, h.xfer, Nat.min_eq_right fits, BitVec.toNat_ofNat]
      exact Nat.mod_eq_of_lt (by omega)
    exact ⟨count, count.trans_le fits⟩
  · rw [State.endOp_res, xfer]
    exact handed read

theorem execReadFlash_raise {s t : State} {e : Status}
    (h : readFlash s.opnd.addr.toNat s.opnd.len.toNat s.begin = raise e t) :
    exec .readFlash s = .next
      (t.endOp { status := statusCode e, ack := t.res.ack, xfer := t.res.xfer, len := t.res.xfer } t.inbuf) := by
  dsimp only [exec, execReadFlash]
  exact (runOp_raise h).trans (congrArg _ (raiseEntry_plain (s := t) (by simp) e))

theorem execWriteFlash_raise {s t : State} {e : Status} (h : writeFlash s.opnd.addr.toNat s.outBytes s.begin = raise e t) :
    exec .writeFlash s = .next (t.endOp { status := statusCode e, ack := t.res.ack, xfer := t.res.xfer } []) := by
  dsimp only [exec, execWriteFlash]
  exact (runOp_raise h).trans (congrArg _ (raiseEntry_plain (s := t) (by simp) e))

/-- Fewer chunks than the transfer has are all of 256 bytes (R68). -/
theorem chunks_le_of_lt_chunkCount {k len : Nat} (h : k < chunkCount len) : 256 * k ≤ len := by
  unfold chunkCount at h
  omega

section
variable {s : State}

theorem readFlash_reports (hr : s.opnd.addr.toNat + s.opnd.len.toNat ≤ 65536) (h : Ready 0 true s.begin) :
    ReportsProgress .readFlash s := by
  have gathered := readFlash_gathered s.opnd.addr.toNat s.opnd.len.toNat (s := s.begin) rfl rfl
  have host := sameHost_rel.readFlash s.opnd.addr.toNat s.opnd.len.toNat s.begin
  have ends := readFlash_transferEnds hr h
  generalize run : readFlash s.opnd.addr.toNat s.opnd.len.toNat s.begin = r at gathered host ends
  cases ends with
  | ok a ended =>
    obtain ⟨ts, all, chunks⟩ := ended
    have len := (congrArg Operands.len host.opnd).trans (chunks.xfer_whole all).symm
    exact chunks.reports (execReadFlash_ok run) rfl (fun _ => ⟨rfl, all⟩) (fun error => absurd rfl error)
      fun _ => ⟨gathered.symm, len⟩
  | raised ended =>
    obtain ⟨code, ts, last, less, chunks⟩ := ended
    exact chunks.reports (execReadFlash_raise run) rfl (fun zero => absurd zero code)
      (fun _ => chunks_le_of_lt_chunkCount less) fun _ => ⟨gathered.symm, rfl⟩

theorem writeFlash_reports (hr : s.opnd.addr.toNat + s.opnd.len.toNat ≤ 65536) (h : Ready 0 true s.begin) :
    ReportsProgress .writeFlash s := by
  have ends := writeFlash_transferEnds (addr := s.opnd.addr.toNat) (buf := s.outBytes) (by simpa using hr) h
  rw [State.outBytes_length] at ends
  generalize run : writeFlash s.opnd.addr.toNat s.outBytes s.begin = r at ends
  cases ends with
  | ok a ended =>
    obtain ⟨ts, all, chunks⟩ := ended
    exact chunks.reports (execWriteFlash_ok run) rfl (fun _ => ⟨rfl, all⟩) (fun error => absurd rfl error) (by simp)
  | raised ended =>
    obtain ⟨code, ts, last, less, chunks⟩ := ended
    exact chunks.reports (execWriteFlash_raise run) rfl (fun zero => absurd zero code)
      (fun _ => chunks_le_of_lt_chunkCount less) (by simp)

end

/-- A transfer is admitted, or refused with nothing done (R69, R204). -/
theorem admitTransfer_outcome (addr len : Nat) (s : State) :
    (s.linkUp = true ∧ s.chanValid = true ∧ addr + len ≤ 65536) ∨
      ∃ e, statusCode e ≠ 0 ∧ admitTransfer addr len s = raise e s := by
  by_cases down : s.linkUp = false
  · exact .inr ⟨.notConnected, by decide, if_pos down⟩
  have up := (Bool.not_eq_false _).mp down
  by_cases closed : s.chanValid = false
  · exact .inr ⟨.noChannel, by decide, admitTransfer_noChannel up closed⟩
  have channel := (Bool.not_eq_false _).mp closed
  by_cases past : 65536 < addr + len
  · exact .inr ⟨.addressRange, by decide, admitTransfer_addressRange up channel past⟩
  · exact .inl ⟨up, channel, not_lt.1 past⟩

end Sys2Proof.Machine

namespace Sys2Proof

open Machine

/-- Settles O41: a transfer refused has no chunk, and one admitted reports the chunks it got through (`Chunks.reports`). -/
theorem transferProgress : Obligations.TransferProgress := by
  intro i s hi hab
  show ReportsProgress i s
  rcases admitTransfer_outcome s.opnd.addr.toNat s.opnd.len.toNat s.begin with ⟨hl, hv, hr⟩ | ⟨e, code, refused⟩
  · have ready : Ready 0 true s.begin := ⟨hl, hab, rfl, hv, Nat.zero_le _⟩
    rcases hi with rfl | rfl
    · exact readFlash_reports hr ready
    · exact writeFlash_reports hr ready
  · have begun : Chunks i s.opnd.len.toNat s.begin [] [] s.begin := .begin rfl rfl
    exact begun.reports (exec_transfer_refused hi refused) rfl (fun zero => absurd zero code) (by simp) fun _ => ⟨rfl, rfl⟩

end Sys2Proof
end

section
/-! SUPPORT. The codecs of a field (43_settings_cache.md R224 to R229): raw integers and their bytes are in one-to-one correspondence, and what each codec encodes and decodes is read off that. -/

namespace Sys2Proof.Machine

/-! ## Raw integers and their bytes (R224) -/

theorem rawInt_lt (raw : List Byte) : rawInt raw < 256 ^ raw.length := by
  induction raw with
  | nil => simp [rawInt]
  | cons b raw ih =>
    have byte := b.isLt
    rw [rawInt, List.length_cons, Nat.pow_succ]
    omega

theorem rawInt_rawBytes {w r : Nat} (h : r < 256 ^ w) : rawInt (rawBytes w r) = r := by
  induction w generalizing r with
  | zero =>
    rw [Nat.pow_zero] at h
    rw [rawBytes, rawInt]
    omega
  | succ w ih =>
    rw [Nat.pow_succ] at h
    rw [rawBytes, rawInt, ih (by omega), BitVec.toNat_ofNat]
    omega

theorem rawBytes_rawInt (raw : List Byte) : rawBytes raw.length (rawInt raw) = raw := by
  induction raw with
  | nil => rfl
  | cons b raw ih =>
    have byte := b.isLt
    have low : BitVec.ofNat 8 (rawInt (b :: raw)) = b := by
      apply BitVec.eq_of_toNat_eq
      rw [BitVec.toNat_ofNat, rawInt]
      omega
    have high : rawInt (b :: raw) / 256 = rawInt raw := by
      rw [rawInt]
      omega
    rw [List.length_cons, rawBytes, low, high, ih]

/-! ## Unsigned integers (R225, R226) -/

section
variable {w : Nat}

theorem encodeRaw_natCast {r : Nat} (h : r < 256 ^ w) : encodeRaw w r = .ok (rawBytes w r) :=
  if_pos ⟨Int.natCast_nonneg r, Int.ofNat_lt.2 h⟩

theorem encodeRaw_rawInt (raw : List Byte) : encodeRaw raw.length (rawInt raw) = .ok raw := by
  rw [encodeRaw_natCast (rawInt_lt raw), rawBytes_rawInt]

/-- An integer the bytes can hold is the integer they hold. -/
theorem encodeRaw_of_fits {v : Int} (h0 : 0 ≤ v) (h1 : v < 256 ^ w) :
    ∃ bs, encodeRaw w v = .ok bs ∧ bs.length = w ∧ (rawInt bs : Int) = v := by
  obtain ⟨r, rfl⟩ := Int.eq_ofNat_of_zero_le h0
  have fits : r < 256 ^ w := by exact_mod_cast h1
  exact ⟨_, encodeRaw_natCast fits, rawBytes_length w r, congrArg _ (rawInt_rawBytes fits)⟩

theorem encodeRaw_of_not_fits {v : Int} (h : ¬(0 ≤ v ∧ v < 256 ^ w)) : encodeRaw w v = .error .valueUnrepresentable := by
  refine if_neg fun fits => h ⟨fits.1, ?_⟩
  exact_mod_cast fits.2

end

/-! ## Scaled integers (R227) -/

section
variable {w num : Nat} {offn : Int}

theorem encodeScaled_below {v : Int} (h : v < offn) : encodeScaled w num offn v = .error .valueUnrepresentable :=
  if_pos (by omega)

/-- Above the offset the quotient, rounded down, is the raw value. -/
theorem encodeScaled_offset (n : Nat) :
    encodeScaled w num offn (offn + n) =
      if 256 ^ w ≤ n / num then .error .valueUnrepresentable else .ok (rawBytes w (n / num)) := by
  have shift : offn + (n : Int) - offn = n := by omega
  rw [encodeScaled, shift, if_neg (by omega), Int.toNat_natCast]

theorem encodeScaled_above {v : Int} (pos : 1 ≤ num) (h : offn + (256 ^ w : Nat) * num ≤ v) :
    encodeScaled w num offn v = .error .valueUnrepresentable := by
  have image : 0 ≤ ((256 ^ w : Nat) : Int) * num := by positivity
  obtain ⟨n, rfl⟩ := Int.le.dest (by linarith : offn ≤ v)
  have large : 256 ^ w * num ≤ n := by
    have : ((256 ^ w : Nat) : Int) * num ≤ n := by linarith
    exact_mod_cast this
  rw [encodeScaled_offset, if_pos ((Nat.le_div_iff_mul_le pos).2 large)]

/-- A value in range is rounded down to the image of a raw value, and is one exactly if `num` divides its distance from the offset. -/
theorem encodeScaled_of_fits {den : Nat} {v : Int} (pos : 1 ≤ num) (h0 : offn ≤ v) (h1 : v < offn + (256 ^ w : Nat) * num) :
    ∃ bs u, encodeScaled w num offn v = .ok bs ∧ bs.length = w ∧ decodeValue (.scaled num den offn) bs = .int u ∧
      u ≤ v ∧ v < u + num ∧ (u = v ↔ (num : Int) ∣ v - offn) := by
  obtain ⟨n, rfl⟩ := Int.le.dest h0
  have small : n / num < 256 ^ w := by
    refine (Nat.div_lt_iff_lt_mul pos).2 ?_
    have : (n : Int) < ((256 ^ w : Nat) : Int) * num := by linarith
    exact_mod_cast this
  refine ⟨rawBytes w (n / num), ((n / num : Nat) : Int) * num + offn, ?_, rawBytes_length _ _, ?_, ?_⟩
  · rw [encodeScaled_offset, if_neg (not_le.2 small)]
  · rw [decodeValue, rawInt_rawBytes small]
  · have split : ((n / num : Nat) : Int) * num + ((n % num : Nat) : Int) = n := by
      exact_mod_cast Nat.div_add_mod' n num
    have rest : n % num < num := Nat.mod_lt n pos
    have distance : offn + (n : Int) - offn = n := by omega
    refine ⟨by omega, by omega, ?_⟩
    rw [distance, Int.natCast_dvd_natCast, Nat.dvd_iff_mod_eq_zero]
    omega

theorem encodeScaled_rawInt (pos : 1 ≤ num) (raw : List Byte) :
    encodeScaled raw.length num offn ((rawInt raw : Int) * num + offn) = .ok raw := by
  have image : (rawInt raw : Int) * num + offn = offn + ((rawInt raw * num : Nat) : Int) := by
    rw [Int.natCast_mul, Int.add_comm]
  rw [image, encodeScaled_offset, Nat.mul_div_cancel _ pos, if_neg (not_le.2 (rawInt_lt raw)), rawBytes_rawInt]

end

/-! ## The sentinel (R226) -/

/-- The sentinel reads as `DISABLED`, every other raw value as the integer it is. -/
theorem decodeValue_bounded (lo hi : Int) (d : Option Nat) (raw : List Byte) :
    decodeValue (.bounded lo hi d) raw = if d = some (rawInt raw) then .disabled else .int (rawInt raw) := by
  cases d with
  | none => rfl
  | some d => simp [decodeValue, eq_comm]

/-- The declared bounds are compared with nothing (R234). -/
theorem encodeValue_bounded_bounds (pad : Byte) (w : Nat) (lo hi lo' hi' : Int) (d : Option Nat) (v : Value) :
    encodeValue pad w (.bounded lo hi d) v = encodeValue pad w (.bounded lo' hi' d) v := by
  cases v <;> cases d <;> rfl

/-- What was decoded is encoded as the bytes it was decoded from, the sentinel too. -/
theorem encodeValue_bounded_decodeValue (pad : Byte) (lo hi : Int) (d : Option Nat) (raw : List Byte) :
    encodeValue pad raw.length (.bounded lo hi d) (decodeValue (.bounded lo hi d) raw) = .ok raw := by
  rw [decodeValue_bounded]
  split
  · subst d
    exact congrArg _ (rawBytes_rawInt raw)
  · exact encodeRaw_rawInt raw

/-! ## Strings (R229) -/

/-- A string that fits stands at the start of the field, with pad bytes after it. -/
theorem encodeString_of_fits (pad : Byte) {w : Nat} {bs : List Byte} (h : bs.length ≤ w) :
    ∃ raw, encodeString pad w bs = .ok raw ∧ raw.length = w ∧ (∀ i, i < bs.length → raw.getD i 0 = bs.getD i 0) ∧
      ∀ i, bs.length ≤ i → i < w → raw.getD i 0 = pad := by
  refine ⟨bs ++ List.replicate (w - bs.length) pad, if_pos h, by simp; omega, fun i hi => ?_, fun i hi hw => ?_⟩
  · exact List.getD_append _ _ _ _ hi
  · rw [List.getD_append_right _ _ _ _ hi, List.getD_replicate _ (by omega)]

end Sys2Proof.Machine

namespace Sys2Proof

open Machine

/-- Settles O46: a string is padded to the width of the field or refused, and read back whole. -/
theorem stringCodec : Obligations.StringCodec := by
  refine fun pad w => ⟨fun raw => rfl, fun bs long => ?_, fun bs fits => ?_, fun v => rfl, rfl⟩
  · exact if_neg (not_le.2 long)
  · exact encodeString_of_fits pad fits

/-- Settles O44: raw integers and their bytes correspond (`rawInt_rawBytes`, `rawBytes_rawInt`). -/
theorem rawCodec : Obligations.RawCodec := by
  refine ⟨fun raw => rfl, fun pad w v => ⟨fun h0 h1 => ?_, fun h => ?_, rfl, fun bs => rfl⟩, fun pad raw => ?_,
    fun pad => ⟨rfl, rfl, rfl, rfl⟩⟩
  · exact encodeRaw_of_fits h0 h1
  · exact encodeRaw_of_not_fits h
  · exact encodeRaw_rawInt raw

/-- Settles O45: BOUNDED is RAW with a sentinel, and SCALED is RAW on the quotient. -/
theorem boundedAndScaledCodecs : Obligations.BoundedAndScaledCodecs := by
  refine ⟨fun pad w lo hi lo' hi' d v raw => ⟨?_, ?_⟩,
    fun pad w lo hi v d => ⟨fun h0 h1 => ?_, fun h => ?_, rfl, fun bs => by cases d <;> rfl⟩,
    fun raw lo hi d => decodeValue_bounded lo hi d raw,
    fun pad w num den offn raw => ⟨rfl, fun bs => rfl, rfl⟩,
    fun pad w d lo hi sentinel => ⟨rawBytes w d, rfl, encodeRaw_natCast sentinel, rawBytes_length w d, ?_⟩,
    fun pad w num den offn v pos => ⟨fun outside => ?_, fun h0 h1 => ?_⟩,
    fun pad num den lo hi offn d raw pos => ⟨?_, ?_⟩⟩
  · exact encodeValue_bounded_bounds pad w lo hi lo' hi' d v
  · rw [decodeValue_bounded, decodeValue_bounded]
  · exact encodeRaw_of_fits h0 h1
  · exact encodeRaw_of_not_fits h
  · rw [decodeValue_bounded, rawInt_rawBytes sentinel, if_pos rfl]
  · exact outside.elim encodeScaled_below (encodeScaled_above pos)
  · exact encodeScaled_of_fits pos h0 h1
  · exact encodeScaled_rawInt pos raw
  · exact encodeValue_bounded_decodeValue pad lo hi d raw

end Sys2Proof
end

section
/-! SUPPORT. SET_FIELD carried out (43_settings_cache.md R22, R232, R233, R235, R237): it is the setting of a field (`Sets`) on the value of the port. The edit stays in the mirror whatever becomes of the write back, and a GET_FIELD after it reads it there. -/

namespace Sys2Proof.Machine

open Ret

section
variable {e : FieldEntry} {v : Value} {raw : List Byte} {s t : State}

/-- SET_FIELD sets the field `A_FIELD` to the value on the port. -/
theorem Sets.of_port (he : s.cfg.params.find s.opnd.field = some e) (hv : s.portValue = .ok v)
    (coded : encodeValue s.cfg.params.strPad e.width e.codec v = .ok raw) : Sets .setField e raw s v := by
  have body : ((lookup s.begin.opnd.field s.begin).bind fun e t =>
      (ofExcept t.portValue t).bind fun v t => setField e v t) = setField e v s.begin := by
    rw [lookup_of (s := s.begin) (i := s.begin.opnd.field) he, Ret.bind_ok, show s.begin.portValue = .ok v from hv]
    rfl
  refine ⟨coded, fun t h => ?_, fun x t h => ?_⟩
  · dsimp only [exec, execSetField]
    exact runOp_ok (body.trans h)
  · dsimp only [exec, execSetField]
    exact (runOp_raise (body.trans h)).trans (congrArg _ (raiseEntry_ack (by decide) x t))

theorem Running.sameHost {k : Nat} {es : List StreamEvent} {page : Nat → Byte} (h : Running s t k es page) :
    SameHost s t := ⟨h.cfg, h.timeout, h.opnd, h.outbuf, h.linkUp, h.fw, h.inputs⟩

/-! ## The edit and its write back -/

/-- What the edit of a field starts from (`fetchIfAbsent_page`), with the transactions made by then (R22, R230). -/
theorem fetchIfAbsent_running {q : Option Reply} {rest : List Reply} {page : Nat → Byte} (hl : s.linkUp = true)
    (hv : s.chanValid = true) (hc : s.cached = q.isNone) (hq : ∀ x ∈ q, x.payload.length = 256)
    (hpage : page = q.elim (readByte s.mem) (fun x => fetchedByte (readByte s.mem) x.payload))
    (ha : ∀ x ∈ q, s.env.answers (x :: rest)) :
    ∃ t, fetchIfAbsent s.begin = .ok () t ∧ t.cached = true ∧
      Running s t q.toList.length (q.toList.flatMap (fetchEvents 0 s.cfg.params s.timeout)) page := by
  subst hpage
  cases q with
  | none => exact ⟨s.begin, fetchIfAbsent_cached (s := s.begin) hc, hc, .begin s⟩
  | some x =>
    obtain ⟨t, fetched, running, -, cached⟩ := (Running.begin s).fetch hl hv (hq x rfl)
      ((Env.afterAnswers_zero s.env).symm ▸ ha x rfl)
    have empty : s.begin.cached ≠ true := by rw [show s.begin.cached = false from hc]; simp
    refine ⟨t, (if_neg empty).trans fetched, cached, ?_⟩
    rw [Option.toList_some, List.flatMap_singleton]
    exact running

/-- A setting that comes to its write back ends in the state the write back leaves, acknowledged or not. -/
theorem Sets.ends_written {i : Instr} (h : Sets i e raw s v) (body : setField e v s.begin = writeBack t)
    (hab : t.env.abandon = []) :
    ∃ r, exec i s = .next ((writeBack t).state.endOp r []) ∧ SameCache t (writeBack t).state := by
  rcases writeBack_outcome hab with ⟨u, wrote, same⟩ | ⟨x, u, wrote, same⟩
  · rw [wrote] at body ⊢
    exact ⟨_, h.ok u body, same⟩
  · rw [wrote] at body ⊢
    exact ⟨_, h.raised x u body, same⟩

/-- Whatever becomes of the write back, the edit stays in the mirror, and the edited page is all that is written to the stream (R233, R237). -/
theorem Sets.edits_and_posts {i : Instr} {f : Byte} (h : Sets i e raw s v) (he : s.cfg.params.find f = some e)
    (hl : s.linkUp = true) (hv : s.chanValid = true) (hab : s.env.abandon = []) {k : Nat} {es : List StreamEvent}
    {page : Nat → Byte} (populated : fetchIfAbsent s.begin = .ok () t) (cached : t.cached = true)
    (running : Running s t k es page) :
    ∃ (u : State) (back : List StreamEvent), exec i s = .next u ∧ SameHost s u ∧ u.cached = true ∧
      (∀ a, readByte u.mem a = editedByte page e raw a) ∧ u.events = s.events ++ es ++ back ∧
      Sends (fun _ bs => bs = e4wRequest s.cfg.params s.cfg.params.cmdDeviceWrite s.cfg.params.settingsBase
        (pageBytes (editedByte page e raw))) back := by
  have edited := readByte_mutate running.mem e (encodeValue_length h.coded)
  have body : setField e v s.begin = writeBack (t.setMem (writeBytes t.mem e.offset raw)) := by
    rw [setField_ready (s := s.begin) he h.coded hl hv, populated, Ret.bind_ok]
  have undisturbed : t.env.abandon = [] := by
    rw [running.env]
    exact hab
  obtain ⟨r, run, sameCached, sameMem⟩ := h.ends_written body undisturbed
  have host := sameHost_rel.trans _ _ _ running.sameHost
    (sameHost_rel.writeBack (t.setMem (writeBytes t.mem e.offset raw)))
  have request : pageRequest (t.setMem (writeBytes t.mem e.offset raw)) =
      e4wRequest s.cfg.params s.cfg.params.cmdDeviceWrite s.cfg.params.settingsBase (pageBytes (editedByte page e raw)) := by
    rw [pageRequest, State.setMem_cfg, running.cfg, State.setMem_mem, readBytes_page edited]
  obtain ⟨back, events, sends⟩ := (writeBack_posted (t.setMem (writeBytes t.mem e.offset raw))).issued
    (P := fun _ bs => bs = e4wRequest s.cfg.params s.cfg.params.cmdDeviceWrite s.cfg.params.settingsBase
      (pageBytes (editedByte page e raw))) request
  refine ⟨_, back, run, host, sameCached.trans cached, fun a => (sameMem a).trans (edited a), ?_, sends⟩
  rw [← running.events]
  exact events

/-! ## The field read back -/

/-- The bytes of an edited field are those it was edited to. -/
theorem readBytes_edited {m : Memory} {page : Nat → Byte} (h : ∀ a, readByte m a = editedByte page e raw a)
    (width : raw.length = e.width) : readBytes m e.offset e.width = raw := by
  refine List.ext_getElem (by simp [width]) fun i h1 h2 => ?_
  have inside : e.offset ≤ e.offset + i ∧ e.offset + i < e.offset + e.width := by omega
  simp only [readBytes, List.getElem_map, List.getElem_range, h, editedByte, if_pos inside, Nat.add_sub_cancel_left]
  exact List.getD_eq_getElem _ _ h2

/-- GET_FIELD with a populated mirror hands back what the field's bytes decode to (R231). -/
theorem execGetField_cached (he : s.cfg.params.find s.opnd.field = some e) (hc : s.cached = true)
    (stored : readBytes s.mem e.offset e.width = raw) :
    exec .getField s = .next (s.endOp (valueResult (decodeValue e.codec raw) s.begin).1
      (valueResult (decodeValue e.codec raw) s.begin).2) := by
  subst stored
  dsimp only [exec, execGetField]
  exact runOp_value (getField_of (s := s.begin) he (fetchIfAbsent_cached (s := s.begin) hc))

end

end Sys2Proof.Machine

namespace Sys2Proof

open Machine

/-- Settles O50: the setting of a field with a peer that acknowledges (`Sets.completes`), on the value of the port. -/
theorem setFieldCompletes : Obligations.SetFieldCompletes := by
  intro s e v raw q r rest page he hport coded hl hv hc hq hpage ha
  obtain ⟨t, run, h, channel, cached⟩ := (Sets.of_port he hport coded).completes he hl hv hc hq hpage ha
  refine ⟨_, run, ⟨rfl, rfl, rfl⟩, ?_, rfl, cached, h.mem, ?_, h.env, h.sameHost, channel⟩
  · show ({ ack := t.res.ack } : Results) = {}
    rw [h.ack]
  · rw [List.append_assoc]
    exact h.events

/-- Settles O52: the edit stays whatever becomes of the write back (`Sets.edits_and_posts`), and GET_FIELD reads its bytes. -/
theorem setThenGet : Obligations.SetThenGet := by
  intro s e v raw q page he hport coded hl hv hc hab hq hpage
  obtain ⟨w, populated, full, running⟩ := fetchIfAbsent_running (rest := []) hl hv hc (fun x hx => (hq x hx).1) hpage
    fun x hx => (hq x hx).2
  obtain ⟨t, back, run, ⟨cfg, -, opnd, -⟩, cached, mem, events, sends⟩ :=
    (Sets.of_port he hport coded).edits_and_posts he hl hv hab populated full running
  have read := execGetField_cached (s := t) (by rw [cfg, opnd]; exact he) cached
    (readBytes_edited mem (encodeValue_length coded))
  refine ⟨t, _, back, run, cached, mem, events, sends, read, ⟨rfl, rfl⟩, rfl, cached, ?_⟩
  cases decodeValue e.codec raw with
  | int x => exact ⟨rfl, rfl, rfl⟩
  | disabled => exact ⟨rfl, rfl⟩
  | bytes bs => exact ⟨rfl, rfl, rfl⟩

end Sys2Proof
end

section
/-! SUPPORT. A fetch that fails (43_settings_cache.md R230, R302): the mirror and `CACHED` are as they were, and the stream has seen its device-read alone, in every operation that makes one (R231, R232, R263). -/

namespace Sys2Proof.Machine

open Ret

/-! ## One fetch -/

/-- `MIRROR`, entry by entry, and `CACHED` are as before. -/
def SameMirror (s t : State) : Prop := t.mem = s.mem ∧ t.cached = s.cached

/-- The transports and the session operations leave the mirror and `CACHED` alone. -/
theorem sameMirror_rel : ChannelRel SameMirror := by
  refine ⟨⟨⟨?_, ?_, ?_, ?_, ?_, ?_, ?_⟩, ?_, ?_⟩, ?_, ?_⟩ <;> intros <;> simp_all [SameMirror]

/-- The request of a fetch: a device-read of 256 bytes of the settings region (R102, R230). -/
def fetchRequest (s : State) : List Byte :=
  e4wRequest s.cfg.params s.cfg.params.cmdDeviceRead s.cfg.params.settingsBase [0x00]

section
variable {s t : State} {r : Stop}

/-- A second part that issues no event keeps what a first part has posted. -/
theorem Posted.bind {α β : Type} {p : Ret α} {f : α → State → Ret β} {bs : List Byte} (h : Posted s p.state bs)
    (same : ∀ a u, (f a u).state.events = u.events) : Posted s (p.bind f).state bs := by
  cases p with
  | ok a u =>
    unfold Posted
    rw [Ret.bind_ok, same]
    exact h
  | stop e u => exact h

theorem memWrite_events (a : Nat) (bs : List Byte) (s : State) : (memWrite a bs s).state.events = s.events := by
  unfold memWrite
  split <;> rfl

theorem deviceRead_posted (addr : Half) (n : Nat) (s : State) :
    Posted s (deviceRead addr n s).state (e4wRequest s.cfg.params s.cfg.params.cmdDeviceRead addr [lenEnc n]) :=
  (e4wSend_posted _ _ _ s).bind fun p u => by split <;> rfl

/-- A read of one whole chunk is one device-read, once it is admitted (R68, R190). -/
theorem readFlash_chunk (addr : Half) (s : State) :
    readFlash addr.toNat 256 s = (admitTransfer addr.toNat 256 s).bind fun _ s =>
      (deviceRead addr 256 ((s.setXfer 0).setInbuf [])).bind fun p t => .ok () (t.tookChunk p) := by
  have one : chunkCount 256 = 1 := rfl
  have whole : chunkLen 256 0 = 256 := rfl
  simp only [readFlash, one, readChunks, chunkAddr_zero, whole]

/-- A fetch posts its device-read at most. -/
theorem fetch_posted (s : State) : Posted s (fetch s).state (fetchRequest s) := by
  have read : Posted s (readFlash s.cfg.params.settingsBase.toNat 256 s).state (fetchRequest s) := by
    rw [readFlash_chunk]
    have admission := admitTransfer_state s.cfg.params.settingsBase.toNat 256 s
    cases admitted : admitTransfer s.cfg.params.settingsBase.toNat 256 s with
    | stop e t =>
      rw [admitted] at admission
      exact .inl (congrArg State.events admission)
    | ok a t =>
      obtain ⟨rfl, -⟩ := admitTransfer_ok admitted
      exact ((deviceRead_posted _ _ ((t.setXfer 0).setInbuf [])).after rfl rfl).bind fun p u => rfl
  refine read.bind fun _ u => ?_
  have kept := memWrite_events 0 u.inbuf u
  cases written : memWrite 0 u.inbuf u with
  | ok a v => rw [written] at kept; exact kept
  | stop e v => rw [written] at kept; exact kept

/-- The bytes reach the mirror only after the last test of the fetch (R230). -/
theorem fetch_stop (h : fetch s = .stop r t) : SameMirror s t := by
  rcases Ret.bind_eq_stop.1 h with read | ⟨_, u, read, rest⟩
  · have kept := sameMirror_rel.readFlash s.cfg.params.settingsBase.toNat 256 s
    rwa [read] at kept
  · have length := readFlash_ok_length read
    rw [memWrite, if_pos (by omega), Ret.bind_ok] at rest
    cases rest

theorem fetchIfAbsent_empty (h : s.cached = false) : fetchIfAbsent s = fetch s := if_neg (by simp [h])

theorem fetchIfAbsent_stop (h : fetchIfAbsent s = .stop r t) : SameMirror s t := by
  cases hc : s.cached with
  | true => rw [fetchIfAbsent_cached hc] at h; cases h
  | false => exact fetch_stop (fetchIfAbsent_empty hc ▸ h)

/-- GET_FIELD stops where the lookup does, or the fetch (R231). -/
theorem getField_stop {i : Byte} (h : getField i s = .stop r t) : SameMirror s t := by
  cases he : s.cfg.params.find i with
  | none =>
    rw [getField, lookup_none he, raise_bind] at h
    cases h
    exact sameMirror_rel.refl s
  | some e =>
    cases fetched : fetchIfAbsent s with
    | ok a u => rw [getField_of he fetched] at h; cases h
    | stop x u =>
      rw [getField, lookup_of he, Ret.bind_ok, fetched, Ret.bind_stop] at h
      cases h
      exact fetchIfAbsent_stop fetched

/-! ## FETCH, GET_FIELD and SETTINGS_BLOCK -/

/-- An operation that nothing abandons ends, and with an error it leaves the mirror as its procedure does where it stops. -/
theorem runOp_keepsMirror {α : Type} {op : BitVec 4} {body : State → Ret α} {results : α → State → Results × List Byte}
    (ran : Ran s.begin (body s.begin)) (faultless : Faultless (body s.begin)) (hab : s.env.abandon = [])
    (ok : ∀ a u, (results a u).1.status = 0) (stops : ∀ x u, body s.begin = .stop x u → SameMirror s.begin u) :
    ∃ t, runOp op body results s = .next t ∧ (t.res.status ≠ 0 → SameMirror s t) := by
  rcases runOp_cases op body results s with ⟨a, u, -, eq⟩ | ⟨x, u, stopped, eq⟩ | ⟨u, stopped, -⟩ | ⟨f, u, stopped, -⟩
  · exact ⟨_, eq, fun failed => absurd (ok a u) failed⟩
  · obtain ⟨res, bs, entry⟩ := raiseEntry_frame op x u
    rw [entry] at eq
    exact ⟨_, eq, fun _ => stops _ u stopped⟩
  · exact absurd stopped (ran.not_abandoned hab)
  · exact absurd rfl (faultless _ _ stopped f)

theorem valueResult_status (v : Value) (t : State) : (valueResult v t).1.status = 0 := by cases v <;> rfl

theorem execFetch_keepsMirror (hab : s.env.abandon = []) :
    ∃ t, exec .fetch s = .next t ∧ (t.res.status ≠ 0 → SameMirror s t) := by
  dsimp only [exec, execFetch]
  exact runOp_keepsMirror (fetch_ran _) (fetch_stops _).faultless hab (fun _ _ => rfl) fun _ _ => fetch_stop

theorem execSettingsBlock_keepsMirror (hab : s.env.abandon = []) :
    ∃ t, exec .settingsBlock s = .next t ∧ (t.res.status ≠ 0 → SameMirror s t) := by
  dsimp only [exec, execSettingsBlock]
  exact runOp_keepsMirror (fetchIfAbsent_ran _) (fetchIfAbsent_stops _).faultless hab (fun _ _ => rfl)
    fun _ _ => fetchIfAbsent_stop

theorem execGetField_keepsMirror (hab : s.env.abandon = []) :
    ∃ t, exec .getField s = .next t ∧ (t.res.status ≠ 0 → SameMirror s t) := by
  dsimp only [exec, execGetField]
  exact runOp_keepsMirror (getField_ran _ _) (getField_stops _ _).faultless hab valueResult_status
    fun _ _ => getField_stop

/-- On an empty mirror the row SETTINGS_BLOCK is FETCH. -/
theorem exec_settingsBlock_empty (h : s.cached = false) : exec .settingsBlock s = exec .fetch s := by
  have body : fetchIfAbsent s.begin = fetch s.begin := fetchIfAbsent_empty (s := s.begin) h
  dsimp only [exec, execSettingsBlock, execFetch, runOp]
  rw [body]

/-- A FETCH that ends with an error is one whose fetch raises it. -/
theorem execFetch_failed (hab : s.env.abandon = []) (run : exec .fetch s = .next t) (failed : t.res.status ≠ 0) :
    ∃ x u, fetch s.begin = raise x u ∧ t = u.endOp { status := statusCode x, ack := u.res.ack } [] := by
  dsimp only [exec, execFetch] at run
  rcases runOp_cases 0x8 fetch ackOnly s with ⟨a, u, -, eq⟩ | ⟨x, u, fetched, eq⟩ | ⟨u, fetched, -⟩ | ⟨f, u, -, eq⟩
  · rw [eq] at run
    cases run
    exact absurd rfl failed
  · rw [eq, raiseEntry_ack (by decide)] at run
    cases run
    exact ⟨x, u, fetched, rfl⟩
  · exact absurd fetched ((fetch_ran s.begin).not_abandoned hab)
  · rw [eq] at run
    cases run

/-- A fetch that fails ends GET_FIELD as it ends FETCH (R231, R302). -/
theorem execGetField_fails_as_fetch {e : FieldEntry} (he : s.cfg.params.find s.opnd.field = some e)
    (empty : s.cached = false) (hab : s.env.abandon = []) (run : exec .fetch s = .next t) (failed : t.res.status ≠ 0) :
    exec .getField s = .next t := by
  obtain ⟨x, u, fetched, rfl⟩ := execFetch_failed hab run failed
  have read : getField s.opnd.field s.begin = raise x u := by
    rw [getField, lookup_of (s := s.begin) he, Ret.bind_ok, fetchIfAbsent_empty (s := s.begin) empty, fetched, raise_bind]
  dsimp only [exec, execGetField]
  exact (runOp_raise read).trans (congrArg _ (raiseEntry_ack (by decide) x u))

/-! ## Step 2 of FLASH_ALL -/

/-- What a write may be so far as step 2 goes: of another step, or the request of the fetch (R263). -/
def FetchesInStep2 (s : State) (k : BitVec 4) (bs : List Byte) : Prop := k = 2 → bs = fetchRequest s

/-- If `t` is in step 2 with an empty mirror, then the mirror is untouched and step 2 has sent its fetch alone. -/
def UnfetchedKept (s t : State) : Prop :=
  t.seqStep = 2 → t.cached = false → SameMirror s t ∧ Issued (FetchesInStep2 s) s t

theorem UnfetchedKept.of_cached (h : t.cached = true) : UnfetchedKept s t := fun _ empty => by
  rw [h] at empty
  cases empty

/-- Step 1 leaves the mirror alone, and stops in step 1. -/
theorem step1_unfetched (s : State) :
    Leads (fun t => SameMirror s t ∧ t.cfg = s.cfg ∧ Issued (FetchesInStep2 s) s t) (UnfetchedKept s)
      (seqStepDo 1 (fun t => selectChannel t.opnd.chan t) s) := by
  have sent : Transacting (FetchesInStep2 s) 1 (s.setSeqStep 1) (selectChannel s.opnd.chan (s.setSeqStep 1)) :=
    selectChannel_transacting _ fun two => absurd two (by simp)
  have mirror := sameMirror_rel.selectChannel s.opnd.chan (s.setSeqStep 1)
  have cfg := (portsRel.toChannelRel.selectChannel s.opnd.chan (s.setSeqStep 1)).2
  have step := (inOneStep_channelRel.selectChannel s.opnd.chan (s.setSeqStep 1)).1
  show Leads _ _ (selectChannel s.opnd.chan (s.setSeqStep 1))
  generalize selectChannel s.opnd.chan (s.setSeqStep 1) = r at sent mirror cfg step
  cases sent with
  | ok a acked => exact .ok a ⟨mirror, cfg, acked.issued⟩
  | stop e issued => exact .stop e fun two => absurd (step.symm.trans two) (by simp)

/-- The edit of a field stops before its fetch or in it, or has populated the mirror (R232). -/
theorem setField_unfetched {i : Byte} {e : FieldEntry} {x : Value} {raw : List Byte}
    (he : t.cfg.params.find i = some e) (hx : encodeValue t.cfg.params.strPad e.width e.codec x = .ok raw) :
    Leads (fun u => u.cached = true)
      (fun u => u.cached = true ∨ SameMirror t u ∧ Posted t u (fetchRequest t))
      (setField e x t) := by
  rcases setField_cases he hx with ⟨y, raised⟩ | edited
  · rw [raised]
    exact .stop _ (.inr ⟨sameMirror_rel.refl t, .inl rfl⟩)
  rw [edited]
  cases fetched : fetchIfAbsent t with
  | stop y u =>
    refine .stop y ?_
    cases hc : t.cached with
    | true => rw [fetchIfAbsent_cached hc] at fetched; cases fetched
    | false =>
      have posted := fetch_posted t
      rw [← fetchIfAbsent_empty hc, fetched] at posted
      exact .inr ⟨fetchIfAbsent_stop fetched, posted⟩
  | ok a u =>
    have cached := cached_rel.writeBack (u.setMem (writeBytes u.mem e.offset raw)) (fetchIfAbsent_ok fetched).1
    rw [Ret.bind_ok]
    cases wrote : writeBack (u.setMem (writeBytes u.mem e.offset raw)) with
    | ok b v => rw [wrote] at cached; exact .ok b cached
    | stop y v => rw [wrote] at cached; exact .stop y (.inl cached)

/-- Step 2 begins with an untouched mirror. If it stops and the mirror is still empty, its fetch was all it did (R263). -/
theorem step2_unfetched (mirror : SameMirror s t) (cfg : t.cfg = s.cfg) (issued : Issued (FetchesInStep2 s) s t) :
    Leads (fun u => u.cached = true) (UnfetchedKept s)
      (seqStepDo 2 (fun t => setOwnField t.cfg.params.fMarker (.int 0) t) t) := by
  obtain ⟨e, raw, he, hx⟩ := (own_values_encoded (t.setSeqStep 2).cfg).1 (.int 0) (by simp)
  have step : seqStepDo 2 (fun t => setOwnField t.cfg.params.fMarker (.int 0) t) t =
      setField e (.int 0) (t.setSeqStep 2) := by
    rw [seqStepDo, setOwnField, lookup_of he, Ret.bind_ok]
  have request : fetchRequest (t.setSeqStep 2) = fetchRequest s := by
    rw [fetchRequest, State.setSeqStep_cfg, cfg, fetchRequest]
  rw [step]
  refine (setField_unfetched he hx).mono (fun _ _ _ cached => cached) fun u end2 => ?_
  rcases end2 with cached | ⟨kept, posted⟩
  · exact .of_cached cached
  · exact fun _ _ => ⟨sameMirror_rel.trans _ _ _ mirror kept, issued.trans (posted.issued fun _ => request)⟩

theorem flashSteps_unfetched (fw : List Byte) (s : State) : UnfetchedKept s (flashSteps fw s).state := by
  refine (step1_unfetched s).bind_state fun _ t _ ⟨mirror, cfg, issued⟩ => ?_
  refine (step2_unfetched mirror cfg issued).bind_state fun _ u _ cached => .of_cached ?_
  have kept := cached_rel
  exact
    kept.of_bind (kept.stepDo _ _ u fun t => kept.setOwnField _ _ t) (fun _ s _ =>
    kept.of_bind (kept.stepDo _ _ s fun t => kept.resetVersion t) fun _ s _ =>
    kept.of_bind (kept.stepDo _ _ s fun t => kept.writeFlash _ _ t) fun _ s _ =>
    kept.of_bind (kept.stepDo _ _ s fun t => kept.setOwnField _ _ t) fun _ s _ =>
    kept.of_bind (kept.stepDo _ _ s fun t => kept.setOwnField _ _ t) fun _ s _ =>
    kept.stepDo _ _ s fun t => kept.toChannelRel.exitSession t) cached

theorem flashAll_unfetched (s : State) : UnfetchedKept s (flashAll s).state := by
  have untouched : UnfetchedKept s s := fun _ _ => ⟨sameMirror_rel.refl s, .of_same rfl⟩
  unfold flashAll fwBytes
  split
  · exact untouched
  split
  · exact untouched
  split
  · exact flashSteps_unfetched _ s
  · exact untouched

/-- `R_STEP` of an error of FLASH_ALL is the step it was raised in, 0 outside the steps (R293, R300). -/
theorem raiseEntry_flashAll (x : Status) (t : State) :
    ∃ res, raiseEntry 0xB x t = t.endOp res [] ∧ res.step = t.seqStep := by
  by_cases outside : t.seqStep = 0
  · exact ⟨_, raiseEntry_plain (by simp [outside]) x, outside.symm⟩
  · exact ⟨_, raiseEntry_wrapped outside x, rfl⟩

/-- FLASH_ALL ends in the state its procedure leaves, and `R_STEP` is 0 or the step it failed in (R260, R293). -/
theorem execFlashAll_ends (hab : s.env.abandon = []) (hfw : s.fw.length = s.opnd.len.toNat) :
    ∃ res, exec .flashAll s = .next ((flashAll s.begin).state.endOp res []) ∧
      (res.step = 0 ∨ res.step = (flashAll s.begin).state.seqStep) := by
  dsimp only [exec, execFlashAll]
  rcases runOp_cases 0xB flashAll flashAllResult s with ⟨a, u, ran, eq⟩ | ⟨x, u, ran, eq⟩ | ⟨u, ran, -⟩ | ⟨f, u, ran, -⟩
  · rw [ran]
    exact ⟨_, eq, .inl rfl⟩
  · obtain ⟨res, entry, step⟩ := raiseEntry_flashAll x u
    rw [ran]
    exact ⟨res, eq.trans (congrArg _ entry), .inr step⟩
  · exact absurd ran ((flashAll_ran s.begin).not_abandoned hab)
  · exact absurd hfw (flashAll_broken ran).2.2.2

end

end Sys2Proof.Machine

namespace Sys2Proof

open Machine

/-- Settles O48: a fetch that stops has changed nothing (`fetch_stop`) and posted its request (`fetch_posted`), and each operation ends as its fetch does. -/
theorem fetchErrorKeepsMirror : Obligations.FetchErrorKeepsMirror := by
  refine fun s hab => ⟨?_, fun i hi => ?_, fun hfw => ?_⟩
  · obtain ⟨u, run, kept⟩ := execFetch_keepsMirror hab
    obtain ⟨new, events, sends⟩ := (fetch_posted s.begin).issued (P := fun _ bs => bs = fetchRequest s) rfl
    refine ⟨u, new, run, (runOp_events (by simpa only [exec, execFetch] using run)).trans events, sends, fun failed => ?_⟩
    obtain ⟨mem, cached⟩ := kept failed
    refine ⟨mem, cached, fun empty => ⟨(exec_settingsBlock_empty empty).trans run, fun e he =>
      ⟨execGetField_fails_as_fetch he empty hab run failed, fun v raw hv coded => ?_⟩⟩⟩
    exact (Sets.of_port he hv coded).fails_as_fetch he empty hab run failed
  · rcases hi with rfl | rfl
    · exact execGetField_keepsMirror hab
    · exact execSettingsBlock_keepsMirror hab
  · obtain ⟨res, run, step⟩ := execFlashAll_ends hab hfw
    obtain ⟨-, new, events, -⟩ := (flashAll_ran s.begin).run.eventsGrow
    refine ⟨_, new, run, events, fun step2 empty => ?_⟩
    have in2 : (flashAll s.begin).state.seqStep = 2 := by
      rcases step with zero | same
      · exact absurd (zero.symm.trans step2) (by decide)
      · exact same.symm.trans step2
    obtain ⟨⟨mem, cached⟩, new', events', sends⟩ := flashAll_unfetched s.begin in2 empty
    obtain rfl := List.append_cancel_left (events.symm.trans events')
    exact ⟨mem, cached.symm.trans empty, fun bs n sent => sends 2 bs n sent rfl⟩

end Sys2Proof
end

section
/-! SUPPORT. FLASH_ALL's settings pages (44_flash_sequencer.md R263 to R268): what the four fields of the sequencer's own hold in each of them, and the run whose every transaction is acknowledged. -/

namespace Sys2Proof.Machine

/-! ## What a field holds in a page -/

/-- The bytes of field `e` in this page are `raw`. -/
def FieldHolds (page : Nat → Byte) (e : FieldEntry) (raw : List Byte) : Prop :=
  ∀ a, e.offset ≤ a → a < e.offset + e.width → page a = raw.getD (a - e.offset) 0

section
variable {page : Nat → Byte} {e f : FieldEntry} {raw : List Byte}

theorem fieldHolds_edited (page : Nat → Byte) (e : FieldEntry) (raw : List Byte) :
    FieldHolds (editedByte page e raw) e raw := fun _ low high => if_pos ⟨low, high⟩

/-- The edit of a field leaves the fields apart from it alone (R233). -/
theorem FieldHolds.apart (h : FieldHolds page e raw) (apart : fieldsApart e f) (raw' : List Byte) :
    FieldHolds (editedByte page f raw') e raw := fun a low high => by
  have outside : ¬(f.offset ≤ a ∧ a < f.offset + f.width) := by
    unfold fieldsApart at apart
    omega
  rw [editedByte, if_neg outside, h a low high]

/-- The first byte of a field. -/
theorem FieldHolds.head (h : FieldHolds page e raw) (some : 1 ≤ e.width) : page e.offset = raw.getD 0 0 := by
  rw [h e.offset (le_refl _) (by omega), Nat.sub_self]

/-- What the field holds is what a read of it returns. -/
theorem FieldHolds.readBytes {m : Memory} (h : FieldHolds page e raw) (mem : ∀ a, readByte m a = page a)
    (width : raw.length = e.width) : readBytes m e.offset e.width = raw := by
  refine readBytes_edited (page := page) (fun a => (mem a).trans ?_) width
  unfold editedByte
  split
  · rename_i inside
    exact h a inside.1 inside.2
  · rfl

end

section
variable {p : Params} {m j n d : FieldEntry} (own : ownFields p m j n d) (page : Nat → Byte)
include own

/-- The marker is 0x00 from step 2 until step 7 (R263, R271). -/
theorem marker_invalid_pages : FieldHolds (page2 m page) m [0x00] ∧ FieldHolds (page3 p m d page) m [0x00] ∧
    FieldHolds (page4 p m j n d page) m [0x00] ∧ FieldHolds (page6 p m j n d page) m [0x00] := by
  obtain ⟨-, -, -, -, mj, mn, md, -⟩ := own
  have two : FieldHolds (page2 m page) m [0x00] := fieldHolds_edited _ _ _
  have three : FieldHolds (page3 p m d page) m [0x00] := two.apart md _
  have four : FieldHolds (page4 p m j n d page) m [0x00] := (three.apart mj _).apart mn _
  exact ⟨two, three, four, four.apart md _⟩

/-- The version reset keeps the name of step 3 (R264, R265). -/
theorem name_page4 : FieldHolds (page4 p m j n d page) d (flashFailText ++ [p.strPad, p.strPad]) := by
  obtain ⟨-, -, -, -, -, -, -, -, jd, nd⟩ := own
  exact ((fieldHolds_edited (page2 m page) d _).apart jd.symm _).apart nd.symm _

/-- The four fields after a complete run (R272). -/
theorem fields_page7 : FieldHolds (page7 p m j n d page) m [0x01] ∧ FieldHolds (page7 p m j n d page) j [0x00] ∧
    FieldHolds (page7 p m j n d page) n [0x00] ∧
    FieldHolds (page7 p m j n d page) d (notReadyText ++ [p.strPad, p.strPad, p.strPad]) := by
  obtain ⟨-, -, -, -, mj, mn, md, jn, jd, nd⟩ := own
  exact ⟨fieldHolds_edited _ _ _,
    (((fieldHolds_edited (page3 p m d page) j _).apart jn _).apart jd _).apart mj.symm _,
    ((fieldHolds_edited _ n _).apart nd _).apart mn.symm _, (fieldHolds_edited _ d _).apart md.symm _⟩

end

/-! ## The steps with a peer that acknowledges -/

/-- The operation begun in `s` is between its select and its exit, against a peer that acknowledges: the channel is selected, the mirror populated, and the replies `rs` are still to come. -/
structure Flashing (s t : State) (k : Nat) (es : List StreamEvent) (page : Nat → Byte) (rs : List Reply) : Prop where
  running : Running s t k es page
  chanValid : t.chanValid = true
  chan : t.chan = s.opnd.chan
  cached : t.cached = true
  answers : (s.env.afterAnswers k).answers rs

section
variable {s t : State} {k : Nat} {es : List StreamEvent} {page : Nat → Byte} {i : Byte} {e : FieldEntry} {v : Value}
  {raw : List Byte} {r : Reply} {rs : List Reply} (step : BitVec 4) (hl : s.linkUp = true)
include hl

/-- A step that sets one field (R264, R267, R268). -/
theorem Flashing.edits (h : Flashing s t k es page (r :: rs)) (he : s.cfg.params.find i = some e)
    (coded : encodeValue s.cfg.params.strPad e.width e.codec v = .ok raw) :
    ∃ u, setField e v (t.setSeqStep step) = .ok () u ∧ Flashing s u (k + 1)
      (es ++ pageEvents step s.cfg.params s.timeout (pageBytes (editedByte page e raw)) r) (editedByte page e raw) rs := by
  obtain ⟨u, run, running, valid, chan, cached, answers⟩ :=
    (h.running.seqStep step).edit hl h.chanValid h.cached he coded h.answers
  exact ⟨u, run, running, valid.trans h.chanValid, chan.trans h.chan, cached, answers⟩

/-- The first edit, in step 2: of the mirror in hand, or after a fetch of one (R263). -/
theorem Running.firstEdit {q : Option Reply} (h : Running s t k es (readByte s.mem)) (valid : t.chanValid = true)
    (chan : t.chan = s.opnd.chan) (cached : t.cached = q.isNone) (whole : ∀ x ∈ q, x.payload.length = 256)
    (hpage : page = q.elim (readByte s.mem) (fun x => fetchedByte (readByte s.mem) x.payload))
    (he : s.cfg.params.find i = some e) (coded : encodeValue s.cfg.params.strPad e.width e.codec v = .ok raw)
    (answers : (s.env.afterAnswers k).answers (q.toList ++ r :: rs)) :
    ∃ u k', setField e v (t.setSeqStep step) = .ok () u ∧ Flashing s u k'
      (es ++ q.toList.flatMap (fetchEvents step s.cfg.params s.timeout) ++
        pageEvents step s.cfg.params s.timeout (pageBytes (editedByte page e raw)) r) (editedByte page e raw) rs := by
  subst hpage
  cases q with
  | none =>
    obtain ⟨u, run, running, valid', chan', cached', answers'⟩ :=
      (h.seqStep step).edit hl valid cached he coded answers
    refine ⟨u, _, run, ⟨?_, valid'.trans valid, chan'.trans chan, cached', answers'⟩⟩
    rw [Option.toList_none, List.flatMap_nil, List.append_nil]
    exact running
  | some x =>
    obtain ⟨u, run, running, valid', chan', cached', answers'⟩ :=
      (h.seqStep step).fetchEdit hl valid cached he coded (whole x rfl) answers
    refine ⟨u, _, run, ⟨?_, valid'.trans valid, chan'.trans chan, cached', answers'⟩⟩
    rw [Option.toList_some, List.flatMap_singleton, List.append_assoc]
    exact running

/-- Step 4 (R265). -/
theorem Flashing.resets {j n : FieldEntry} (h : Flashing s t k es page (r :: rs))
    (hj : s.cfg.params.find s.cfg.params.fVerMajor = some j) (hn : s.cfg.params.find s.cfg.params.fVerMinor = some n) :
    ∃ u, resetVersion (t.setSeqStep step) = .ok () u ∧ Flashing s u (k + 1)
      (es ++ pageEvents step s.cfg.params s.timeout (pageBytes (editedByte (editedByte page j [0x00]) n [0x00])) r)
      (editedByte (editedByte page j [0x00]) n [0x00]) rs := by
  obtain ⟨u, run, running, valid, chan, cached, answers⟩ :=
    (h.running.seqStep step).reset hl h.chanValid hj hn h.answers
  exact ⟨u, run, running, valid.trans h.chanValid, chan.trans h.chan, cached.trans h.cached, answers⟩

/-- Step 5 (R266). -/
theorem Flashing.programs {addr : Nat} {buf : List Byte} {rf : List Reply} (h : Flashing s t k es page (rf ++ rs))
    (fits : addr + buf.length ≤ 65536) (count : rf.length = chunkCount buf.length) :
    ∃ u, writeFlash addr buf (t.setSeqStep step) = .ok () u ∧ Flashing s u (k + chunkCount buf.length)
      (es ++ writeEvents step s.cfg.params s.timeout addr buf rf) page rs := by
  obtain ⟨u, run, running, valid, chan, cached, -, answers⟩ :=
    (h.running.seqStep step).program hl h.chanValid fits count h.answers
  exact ⟨u, run, running, valid.trans h.chanValid, chan.trans h.chan, cached.trans h.cached, answers⟩

end

end Sys2Proof.Machine

namespace Sys2Proof

open Machine

/-- Settles O57: the eight acknowledged steps one after the other (`flashSteps_ok`), and the fields of the last page. -/
theorem flashAllCompletes : Obligations.FlashAllCompletes := by
  intro s m j n d r1 q r2 r3 r4 rf r6 r7 r8 rest page hl hr hfw hm hj hn hd hc hq hpage count ha
  obtain ⟨invalid, valid, fail, notReady⟩ := own_values hm hd
  have answers : (s.env.afterAnswers 0).answers
      (r1 :: (q.toList ++ r2 :: r3 :: r4 :: (rf ++ r6 :: r7 :: r8 :: rest))) := by
    rw [Env.afterAnswers_zero]
    simpa only [List.cons_append, List.append_assoc, List.nil_append] using ha
  obtain ⟨t1, e1, run1, valid1, chan1, cached1, answers1⟩ :=
    ((Running.begin s).seqStep 1).select s.opnd.chan hl answers
  obtain ⟨t2, k, e2, h2⟩ := run1.firstEdit 2 hl valid1 chan1 (cached1.trans hc) hq hpage hm invalid answers1
  obtain ⟨t3, e3, h3⟩ := h2.edits 3 hl hd fail
  obtain ⟨t4, e4, h4⟩ := h3.resets 4 hl hj hn
  obtain ⟨t5, e5, h5⟩ := h4.programs 5 hl (hfw ▸ hr) (hfw ▸ count)
  obtain ⟨t6, e6, h6⟩ := h5.edits 6 hl hd notReady
  obtain ⟨t7, e7, h7⟩ := h6.edits 7 hl hm valid
  obtain ⟨t8, e8, run8, valid8, chan8, cached8, -⟩ := (h7.running.seqStep 8).exit hl h7.answers
  have steps : flashAll s.begin = .ok () t8 :=
    (flashAll_admitted (s := s.begin) hl hr hfw).trans
      (flashSteps_ok (s := s.begin) hm hd e1 run1.cfg e2 h2.running.cfg e3 e4 h4.running.cfg e5 h5.running.cfg e6
        h6.running.cfg e7 e8)
  refine ⟨_, execFlashAll_ok steps, ⟨rfl, rfl, rfl⟩, ?_, rfl, valid8, chan8.trans h7.chan, cached8.trans h7.cached,
    run8.mem, ?_, run8.sameHost, fun own => ?_⟩
  · show ({ ack := t8.res.ack, xfer := t8.opnd.len } : Results) = _
    rw [run8.ack, run8.opnd]
  · exact run8.events
  · obtain ⟨marker, major, minor, name⟩ := fields_page7 own page
    have width := encodeValue_length notReady
    refine ⟨(run8.mem _).trans (marker.head (find_range hm).1), (run8.mem _).trans (major.head (find_range hj).1),
      (run8.mem _).trans (minor.head (find_range hn).1), ?_⟩
    have twelve : d.width = 12 := width.symm
    rw [← twelve]
    exact name.readBytes run8.mem width

end Sys2Proof
end

section
/-! SUPPORT. The mirror when FLASH_ALL ends, whatever the peer answers (44_flash_sequencer.md R262 to R269, R271 (b), R272): as it was found, or the settings page of the step in which the run has ended. -/

namespace Sys2Proof.Machine

open Ret

/-! ## A step and its page -/

/-- `t` is in step `k`, with a populated mirror that reads as `page`. -/
structure InPage (k : BitVec 4) (page : Nat → Byte) (t : State) : Prop where
  step : t.seqStep = k
  cached : t.cached = true
  mem : ∀ a, readByte t.mem a = page a

/-- The transports and the session operations stay in the step and keep its page. -/
theorem inPage_rel (k : BitVec 4) (page : Nat → Byte) : ChannelRel (fun s t => InPage k page s → InPage k page t) := by
  refine ⟨⟨⟨fun _ h => h, fun _ _ _ h g x => g (h x), ?_, ?_, ?_, ?_, ?_⟩, ?_, ?_⟩, ?_, ?_⟩
  all_goals intros; rename_i h; exact ⟨h.step, h.cached, h.mem⟩

/-- The settings page of step `k` of FLASH_ALL, from step 2 on, where the run found `page` (R263 to R269). -/
inductive StepPage (p : Params) (m j n d : FieldEntry) (page : Nat → Byte) : BitVec 4 → (Nat → Byte) → Prop where
  | invalidated : StepPage p m j n d page 2 (page2 m page)
  | failing : StepPage p m j n d page 3 (page3 p m d page)
  | versionReset : StepPage p m j n d page 4 (page4 p m j n d page)
  | programmed : StepPage p m j n d page 5 (page4 p m j n d page)
  | notReady : StepPage p m j n d page 6 (page6 p m j n d page)
  | validated : StepPage p m j n d page 7 (page7 p m j n d page)
  | exited : StepPage p m j n d page 8 (page7 p m j n d page)

section
variable {p : Params} {m j n d : FieldEntry} {page pg : Nat → Byte} {k : BitVec 4}

theorem StepPage.two_le (h : StepPage p m j n d page k pg) : 2 ≤ k.toNat := by
  cases h <;> decide

/-- The marker in the page of a step: 0x00 up to step 6, and 0x01 from step 7 on (R263, R268). -/
theorem StepPage.marker (h : StepPage p m j n d page k pg) (own : ownFields p m j n d) :
    FieldHolds pg m [if k.toNat ≤ 6 then 0x00 else 0x01] := by
  obtain ⟨two, three, four, six⟩ := marker_invalid_pages own page
  obtain ⟨seven, -⟩ := fields_page7 own page
  cases h
  case invalidated => exact two
  case failing => exact three
  case versionReset => exact four
  case programmed => exact four
  case notReady => exact six
  case validated => exact seven
  case exited => exact seven

/-- The name in the page of step 5 (R264, R266). -/
theorem StepPage.name (h : StepPage p m j n d page 5 pg) (own : ownFields p m j n d) :
    FieldHolds pg d (flashFailText ++ [p.strPad, p.strPad]) := by
  cases h
  exact name_page4 own page

end

/-- The mirror in a state that FLASH_ALL, begun in `s`, ends in: untouched by a failure in step 1 or in the fetch of step 2, else the page of the step. -/
def MirrorAt (s : State) (m j n d : FieldEntry) (t : State) : Prop :=
  (SameMirror s t ∧ (t.seqStep = 1 ∨ t.seqStep = 2 ∧ s.cached = false)) ∨
    ∃ page pg k, StepPage s.cfg.params m j n d page k pg ∧ InPage k pg t

/-- The marker and the name in a mirror that FLASH_ALL leaves (R271 (b), R272). -/
theorem MirrorAt.failSafe {s t : State} {m j n d : FieldEntry} (h : MirrorAt s m j n d t)
    (own : ownFields s.cfg.params m j n d) :
    t.seqStep ≠ 0 ∧ (t.seqStep = 1 → SameMirror s t) ∧
      (t.seqStep = 2 → (s.cached = true → t.cached = true) ∧ (t.cached = false → t.mem = s.mem) ∧
        (t.cached = true → readByte t.mem m.offset = 0x00)) ∧
      (3 ≤ t.seqStep.toNat → t.seqStep.toNat ≤ 6 → readByte t.mem m.offset = 0x00) ∧
      (t.seqStep = 5 → readBytes t.mem d.offset 12 = flashFailText ++ [s.cfg.params.strPad, s.cfg.params.strPad]) ∧
      (t.seqStep = 7 ∨ t.seqStep = 8 → readByte t.mem m.offset = 0x01) := by
  rcases h with ⟨same, one | ⟨two, empty⟩⟩ | ⟨page, pg, k, stepPage, rfl, cached, mem⟩
  · simp [one, same]
  · simp [two, empty, same.1, same.2]
  · have marker : readByte t.mem m.offset = if t.seqStep.toNat ≤ 6 then 0x00 else 0x01 :=
      (mem _).trans ((stepPage.marker own).head (find_range own.1).1)
    have later := stepPage.two_le
    refine ⟨fun h0 => ?_, fun h1 => ?_, fun h2 => ?_, fun _ h6 => marker.trans (if_pos h6), fun h5 => ?_, fun late => ?_⟩
    · simp [h0] at later
    · simp [h1] at later
    · exact ⟨fun _ => cached, fun empty => by simp [cached] at empty, fun _ => by simpa [h2] using marker⟩
    · rw [h5] at stepPage
      have name := stepPage.name own
      obtain ⟨-, -, -, hd, -⟩ := own
      obtain ⟨-, -, -, ⟨d', ed, twelve, -⟩⟩ := own_fields_present s.cfg
      obtain rfl : d = d' := Option.some.inj (hd.symm.trans ed)
      rw [← twelve]
      exact name.readBytes mem (by rw [twelve]; rfl)
    · rcases late with h7 | h8
      · simpa [h7] using marker
      · simpa [h8] using marker

/-! ## What each step does to the mirror -/

section
variable {s t : State} {m j n d e : FieldEntry} {page pg : Nat → Byte} {k : BitVec 4} {raw : List Byte}

/-- The edit of a field, whatever becomes of its write back (R233). -/
theorem writeBack_inPage (h : InPage k page t) (width : raw.length = e.width) :
    InPage k (editedByte page e raw) (writeBack (t.setMem (writeBytes t.mem e.offset raw))).state := by
  have kept := inPage_rel k (editedByte page e raw)
  exact kept.of_bind (kept.memRead 0 256 _) (fun _ u _ => kept.writeFlash _ _ u)
    ⟨h.step, h.cached, readByte_mutate h.mem e width⟩

/-- On an open channel a step that sets a field comes to its fetch and its edit (R232, R263, R264, R267, R268). -/
theorem Reached.setsField_eq {c : Nat} (h : Reached s c t) (hl : s.linkUp = true) (hc : 1 ≤ c) (field : Params → Byte)
    {x : Value} (he : s.cfg.params.find (field s.cfg.params) = some e)
    (coded : encodeValue s.cfg.params.strPad e.width e.codec x = .ok raw) :
    seqStepDo k (fun t => setOwnField (field t.cfg.params) x t) t =
      (fetchIfAbsent (t.setSeqStep k)).bind fun _ u => writeBack (u.setMem (writeBytes u.mem e.offset raw)) := by
  have cfg : (t.setSeqStep k).cfg = s.cfg := h.host.cfg
  rw [← cfg] at he coded
  rw [seqStepDo, setOwnField, lookup_of he, Ret.bind_ok]
  exact setField_ready he coded (h.host.linkUp.trans hl) (h.chan hc)

/-- Step 2 fails in the fetch of an empty mirror and leaves it so, or makes its edit (R263). -/
theorem Reached.invalidates (h : Reached s 1 t) (hl : s.linkUp = true)
    (hm : s.cfg.params.find s.cfg.params.fMarker = some m)
    (coded : encodeValue s.cfg.params.strPad m.width m.codec (.int 0) = .ok [0x00]) {u : State}
    (out : (seqStepDo 2 (fun t => setOwnField t.cfg.params.fMarker (.int 0) t) t).state = u) :
    (SameMirror t u ∧ u.seqStep = 2 ∧ t.cached = false) ∨ ∃ page, InPage 2 (page2 m page) u := by
  rw [h.setsField_eq hl (le_refl 1) Params.fMarker hm coded] at out
  subst out
  have step := (inOneStep_cacheRel.fetchIfAbsent (t.setSeqStep 2)).1
  cases fetched : fetchIfAbsent (t.setSeqStep 2) with
  | stop x v =>
    rw [fetched] at step
    have kept : SameMirror (t.setSeqStep 2) v := fetchIfAbsent_stop fetched
    refine .inl ⟨kept, step, ?_⟩
    by_contra cached
    rw [fetchIfAbsent_cached (s := t.setSeqStep 2) (by simpa using cached)] at fetched
    cases fetched
  | ok a v =>
    rw [fetched] at step
    exact .inr ⟨readByte v.mem, writeBack_inPage ⟨step, (fetchIfAbsent_ok fetched).1, fun _ => rfl⟩
      (encodeValue_length coded)⟩

/-- The later steps that set a field make their edit (R264, R267, R268). -/
theorem Reached.setsField_inPage {c : Nat} {k' : BitVec 4} (h : Reached s c t) (hl : s.linkUp = true) (hc : 1 ≤ c)
    (field : Params → Byte) {x : Value} (he : s.cfg.params.find (field s.cfg.params) = some e)
    (coded : encodeValue s.cfg.params.strPad e.width e.codec x = .ok raw) (inPage : InPage k' page t) :
    InPage k (editedByte page e raw) (seqStepDo k (fun t => setOwnField (field t.cfg.params) x t) t).state := by
  rw [h.setsField_eq hl hc field he coded, fetchIfAbsent_cached (s := t.setSeqStep k) inPage.cached, Ret.bind_ok]
  exact writeBack_inPage (t := t.setSeqStep k) ⟨rfl, inPage.cached, inPage.mem⟩ (encodeValue_length coded)

/-- Step 4 edits both version fields (R265). -/
theorem resetVersion_inPage (hj : t.cfg.params.find t.cfg.params.fVerMajor = some j)
    (hn : t.cfg.params.find t.cfg.params.fVerMinor = some n) (inPage : InPage k page t) :
    InPage k (editedByte (editedByte page j [0x00]) n [0x00]) (resetVersion t).state := by
  obtain ⟨-, ⟨j', ej, wj, -⟩, ⟨n', en, wn, -⟩, -⟩ := own_fields_present t.cfg
  rw [hj] at ej; cases ej
  rw [hn] at en; cases en
  have fitsJ := find_range hj
  have fitsN := find_range hn
  rw [resetVersion, lookup_of hj, Ret.bind_ok, lookup_of hn, Ret.bind_ok, mutate, memWrite,
    if_pos (by simp; omega), Ret.bind_ok, mutate, memWrite, if_pos (by simp; omega), Ret.bind_ok]
  exact writeBack_inPage (t := t.setMem (writeBytes t.mem j.offset [0x00]))
    ⟨inPage.step, inPage.cached, readByte_mutate inPage.mem j (by simp [wj])⟩ (by simp [wn])

/-! ## The steps in a row -/

/-- What is known of the mirror in the state a step leaves holds both where the step succeeds and where it fails. -/
theorem Ends.mirrorAt {ok : State → Prop} {failed : Status → State → Prop} {r : Ret Unit} (h : Ends ok failed r)
    (stepPage : StepPage s.cfg.params m j n d page k pg) (out : InPage k pg r.state) :
    Ends (fun u => ok u ∧ InPage k pg u) (fun _ u => MirrorAt s m j n d u) r := by
  refine h.mono (fun a u hu known => ⟨known, ?_⟩) fun e u hu _ => .inr ⟨page, pg, k, stepPage, ?_⟩
  · rwa [hu] at out
  · rwa [hu] at out

/-- Step 1 leaves the mirror alone (R262). -/
theorem Reached.select_mirrorAt (h : Reached s 0 t) (hl : s.linkUp = true) (same : SameMirror s t) :
    Ends (fun u => Reached s 1 u ∧ SameMirror s u) (fun _ u => MirrorAt s m j n d u)
      (seqStepDo 1 (fun t => selectChannel t.opnd.chan t) t) := by
  have kept := sameMirror_rel.selectChannel t.opnd.chan (t.setSeqStep 1)
  have step := (inOneStep_channelRel.selectChannel t.opnd.chan (t.setSeqStep 1)).1
  refine (h.select hl).mono (fun a u hu reached => ⟨reached, ?_⟩) fun x u hu _ => .inl ⟨?_, .inl ?_⟩
  all_goals have out : (selectChannel t.opnd.chan (t.setSeqStep 1)).state = u := congrArg Ret.state hu
  · exact out ▸ sameMirror_rel.trans _ _ _ same kept
  · exact out ▸ sameMirror_rel.trans _ _ _ same kept
  · exact out ▸ step

/-- Step 2 (R263). -/
theorem Reached.invalidate_mirrorAt (h : Reached s 1 t) (hl : s.linkUp = true) (same : SameMirror s t)
    (hm : s.cfg.params.find s.cfg.params.fMarker = some m)
    (coded : encodeValue s.cfg.params.strPad m.width m.codec (.int 0) = .ok [0x00]) :
    Ends (fun u => Reached s 2 u ∧ ∃ page, InPage 2 (page2 m page) u) (fun _ u => MirrorAt s m j n d u)
      (seqStepDo 2 (fun t => setOwnField t.cfg.params.fMarker (.int 0) t) t) := by
  have found := (own_values_encoded t.cfg).1 (.int 0) (by simp)
  refine (h.setsField (k := 2) hl rfl (by omega) (by omega) (by decide) Params.fMarker found).mono
    (fun a u hu reached => ⟨reached, ?_⟩) fun x u hu _ => ?_
  · rcases h.invalidates hl hm coded (congrArg Ret.state hu) with ⟨⟨-, cached⟩, -, empty⟩ | edited
    · have full := reached.populated (le_refl 2)
      cases full.symm.trans (cached.trans empty)
    · exact edited
  · rcases h.invalidates hl hm coded (congrArg Ret.state hu) with ⟨kept, step, empty⟩ | ⟨page, edited⟩
    · exact .inl ⟨sameMirror_rel.trans _ _ _ same kept, .inr ⟨step, same.2.symm.trans empty⟩⟩
    · exact .inr ⟨page, _, 2, .invalidated, edited⟩

end

/-- The eight steps, whatever the peer answers: wherever they end, the mirror is as found or is the page of the step, and after a complete run it is the last page. -/
theorem flashSteps_mirrorAt {s t : State} {m j n d : FieldEntry} {fw : List Byte}
    (own : ownFields s.cfg.params m j n d) (hl : s.linkUp = true) (hfw : fw.length = s.opnd.len.toNat)
    (hr : s.cfg.params.fwBase.toNat + s.opnd.len.toNat ≤ 65536) (start : Reached s 0 t) (same : SameMirror s t) :
    Ends (fun u => ∃ page, InPage 8 (page7 s.cfg.params m j n d page) u) (fun _ u => MirrorAt s m j n d u)
      (flashSteps fw t) := by
  obtain ⟨hm, hj, hn, hd, -⟩ := own
  obtain ⟨encInvalid, encValid, encFail, encNotReady⟩ := own_values hm hd
  have marker : ∀ (t : State), ∀ x ∈ [Value.int 0, .int 1], _ := fun t => (own_values_encoded t.cfg).1
  have name : ∀ (t : State), ∀ x ∈ [Value.bytes flashFailText, .bytes notReadyText], _ := fun t =>
    (own_values_encoded t.cfg).2
  refine (start.select_mirrorAt hl same).bind fun _ t1 _ ⟨h1, same1⟩ => ?_
  refine (h1.invalidate_mirrorAt hl same1 hm encInvalid).bind fun _ t2 _ ⟨h2, page, p2⟩ => ?_
  have failing := h2.setsField (k := 3) hl rfl (by omega) (by omega) (by decide) Params.fName
    (name t2 (.bytes flashFailText) (by simp))
  refine (failing.mirrorAt (.failing (page := page))
    (h2.setsField_inPage hl (by omega) Params.fName hd encFail p2)).bind fun _ t3 _ ⟨h3, p3⟩ => ?_
  have cfg3 : (t3.setSeqStep 4).cfg = s.cfg := h3.host.cfg
  refine ((h3.resetsVersion hl).mirrorAt (.versionReset (page := page))
    (resetVersion_inPage (t := t3.setSeqStep 4) (cfg3 ▸ hj) (cfg3 ▸ hn) ⟨rfl, p3.cached, p3.mem⟩)).bind
    fun _ t4 _ ⟨h4, p4⟩ => ?_
  refine ((h4.writesImage hl hfw hr).mirrorAt (.programmed (page := page))
    ((inPage_rel 5 _).writeFlash _ _ (t4.setSeqStep 5) ⟨rfl, p4.cached, p4.mem⟩)).bind fun _ t5 _ ⟨h5, p5⟩ => ?_
  have notReady := h5.setsField (k := 6) hl rfl (by omega) (by omega) (by decide) Params.fName
    (name t5 (.bytes notReadyText) (by simp))
  refine (notReady.mirrorAt (.notReady (page := page))
    (h5.setsField_inPage hl (by omega) Params.fName hd encNotReady p5)).bind fun _ t6 _ ⟨h6, p6⟩ => ?_
  have valid := h6.setsField (k := 7) hl rfl (by omega) (by omega) (by decide) Params.fMarker
    (marker t6 (.int 1) (by simp))
  refine (valid.mirrorAt (.validated (page := page))
    (h6.setsField_inPage hl (by omega) Params.fMarker hm encValid p6)).bind fun _ t7 _ ⟨h7, p7⟩ => ?_
  exact ((h7.exits hl).mirrorAt (.exited (page := page))
    ((inPage_rel 8 _).exitSession (t7.setSeqStep 8) ⟨rfl, p7.cached, p7.mem⟩)).mono
    (fun _ _ _ ⟨_, p8⟩ => ⟨page, p8⟩) fun _ _ _ h => h

/-- A failed step is never reported as `OK` (R260, R290). -/
theorem stepStatus_ne_ok (t : State) : statusCode t.stepStatus ≠ 0x00 := by
  unfold State.stepStatus
  split <;> decide

end Sys2Proof.Machine

namespace Sys2Proof

open Machine

/-- Settles O60: `flashSteps_mirrorAt`, and the marker and the name in the page of each step (`StepPage.marker`, `StepPage.name`). -/
theorem markerInMirror : Obligations.MarkerInMirror := by
  intro s m j n d own hl hr hfw hab
  have first : 1 ≤ m.width := (find_range own.1).1
  have steps := flashSteps_mirrorAt own hl hfw hr (Reached.begin hab) ⟨rfl, rfl⟩
  have admitted : flashAll s.begin = flashSteps s.fw s.begin := flashAll_admitted (s := s.begin) hl hr hfw
  rw [← admitted] at steps
  generalize run : flashAll s.begin = r at steps
  cases steps with
  | @ok a t done =>
    obtain ⟨page, inPage⟩ := done
    obtain ⟨marker, -⟩ := fields_page7 own page
    exact ⟨_, execFlashAll_ok run, by simp, by simp, by simp, by simp, fun _ => (inPage.mem _).trans (marker.head first)⟩
  | @raised e t failed =>
    obtain ⟨inside, step1, step2, steps36, step5, steps78⟩ := failed.failSafe own
    refine ⟨_, execFlashAll_raise run inside, step1, step2, steps36, step5, fun late => steps78 (late.imp_right ?_)⟩
    rintro (step8 | ended)
    · exact step8
    · exact absurd ended (stepStatus_ne_ok t)

end Sys2Proof
end

section
/-! SUPPORT. The statement on the end of every operation: which instructions answer a next state. -/

namespace Sys2Proof

open Machine

/-- Settles O13: of the ways an instruction can answer (`exec_answers`), only the refusal of a bootloader row and the fault of `FLASH_ALL` are no next state. -/
theorem othersAnswerNext : Obligations.OthersAnswerNext := by
  intro i s notBootloader firmwareFits
  have answers := exec_answers i s
  generalize exec i s = outcome at answers ⊢
  cases answers with
  | kind row => exact ⟨_, rfl⟩
  | refused row => exact absurd row (notBootloader _)
  | endedAtOnce r bs => exact ⟨_, rfl⟩
  | ended run r bs => exact ⟨_, rfl⟩
  | abandoned run now => exact ⟨_, rfl⟩
  | fault isFlashAll mismatch =>
    obtain ⟨-, -, wrongLength⟩ := mismatch
    exact absurd (firmwareFits isFlashAll) wrongLength

end Sys2Proof
end
